-- ==== Sys2Proof/Word.lean ====
section
/-! DEFINITION. The widths of the machine: a byte, a 16-bit word, a 12-bit immediate and a register number
(00_scope.md R5, 30_encoding.md R71). -/

namespace Sys2Proof

/-- An 8-bit value: a general register, a timer, a byte of memory (00_scope.md R5). -/
abbrev Byte := BitVec 8

/-- A 16-bit value: the index register, the program counter, a return address, an instruction word (00_scope.md R5). -/
abbrev Word := BitVec 16

/-- The 12-bit immediate `nnn` (30_encoding.md R71). -/
abbrev Imm12 := BitVec 12

/-- The number of a general register, 0 to 15: every value of a 4-bit field names one (30_encoding.md R74). -/
abbrev Reg := Fin 16

/-- VF, register 15, the flag output (10_state.md R21). -/
abbrev regVF : Reg := 15

/-- V0, the register Bnnn adds (30_encoding.md R74). -/
abbrev regV0 : Reg := 0

/-- A Boolean stored in a register: true is 1, false is 0 (00_scope.md R8). -/
def boolByte (b : Bool) : Byte := if b then 1 else 0

end Sys2Proof
end

