-- ==== Sys2Proof/Config.lean ====
section
/-! DEFINITION. What an implementation fixes and the spec leaves open (00_scope.md R6, 10_state.md R38): the five named
parameters, of which the machine has one unknown value, and the two draws, which are free values. -/

namespace Sys2Proof

/-- When the timers tick (60_exceptions.md R241). -/
inductive TimerPolicy where
  /-- `PER_STEP`: Step ends with a Tick. -/
  | perStep
  /-- `EXTERNAL_TICK`: only the host's TickTimers ticks. -/
  | externalTick
  deriving DecidableEq, Repr, Inhabited

/-- The comparison in the no-borrow flag of 8xy5 and 8xy7 (42_alu.md R160). -/
inductive BorrowCompare where
  /-- `GE`: no borrow when a ≥ b. -/
  | ge
  /-- `GT`: no borrow when a > b. -/
  | gt
  deriving DecidableEq, Repr, Inhabited

/-- What Dxyn does at the framebuffer's edges (40_display.md R102, R106). -/
inductive DrawEdge where
  /-- `WRAP`: coordinates are reduced modulo 64 and 32. -/
  | wrap
  /-- `CLIP`: bits past the edges are dropped. -/
  | clip
  deriving DecidableEq, Repr, Inhabited

/-- The conventional glyph bytes, digit 0 to digit F, five bytes each: the default of FONT_GLYPHS
(10_state.md R36, from general knowledge there). -/
def conventionalGlyphs : Vector Byte 80 := #v[
  0xF0, 0x90, 0x90, 0x90, 0xF0,  0x20, 0x60, 0x20, 0x20, 0x70,
  0xF0, 0x10, 0xF0, 0x80, 0xF0,  0xF0, 0x10, 0xF0, 0x10, 0xF0,
  0x90, 0x90, 0xF0, 0x10, 0x10,  0xF0, 0x80, 0xF0, 0x10, 0xF0,
  0xF0, 0x80, 0xF0, 0x90, 0xF0,  0xF0, 0x10, 0x20, 0x40, 0x40,
  0xF0, 0x90, 0xF0, 0x90, 0xF0,  0xF0, 0x90, 0xF0, 0x10, 0xF0,
  0xF0, 0x90, 0xF0, 0x90, 0x90,  0xE0, 0x90, 0xE0, 0x90, 0xE0,
  0xF0, 0x80, 0x80, 0x80, 0xF0,  0xE0, 0x90, 0x90, 0x90, 0xE0,
  0xF0, 0x80, 0xF0, 0x80, 0xF0,  0xF0, 0x80, 0xF0, 0x80, 0x80]

/-- The parameters of the block (00_scope.md R6), with the defaults the spec gives; TIMER_POLICY and FONT_BASE have
none. The operations that depend on a parameter take its value as an argument, so every value is modelled. -/
structure Params where
  /-- TIMER_POLICY (92_eei_decisions.md D1, open). -/
  timerPolicy : TimerPolicy
  /-- FONT_BASE, with FONT_BASE + 80 ≤ 0x200, that is 0 to 0x1B0 (92_eei_decisions.md D12, open). -/
  fontBase : Fin 433
  /-- FONT_GLYPHS, any 80 bytes (92_eei_decisions.md D13, open). -/
  fontGlyphs : Vector Byte 80 := conventionalGlyphs
  /-- BORROW_COMPARE (92_eei_decisions.md D23, open). -/
  borrowCompare : BorrowCompare := .ge
  /-- DRAW_EDGE (92_eei_decisions.md D24, open). -/
  drawEdge : DrawEdge := .wrap
  deriving DecidableEq, Repr, Inhabited

/-- The parameters of THIS machine: one value, fixed for the run, that nothing can evaluate. DESIGN CHOICE, safe: a
claim proved of it holds for every choice of the parameters (log entries 1 to 5). -/
opaque Config.params : Params

/-- RAND: the byte draw number n gives, a free value (42_alu.md R165; log entry 6). DESIGN CHOICE, safe. -/
opaque Config.rand : Nat → Byte

/-- KEYSEL: what draw number n answers; reduced modulo the number of pressed keys it names one of them, and it may name
any (44_keypad.md R205; log entry 7). DESIGN CHOICE, safe. -/
opaque Config.keySel : Nat → Nat

end Sys2Proof
end

