-- ==== Sys2Proof/Syntax.lean ====
section
/-! DEFINITION. The 34 instructions of spec/opcode_table.json (00_scope.md R2, 30_encoding.md R77), one
constructor a row, with the operand fields of its format (30_encoding.md R76). -/

namespace Sys2Proof

/-- The instruction set. Operands have exactly the width their field has in the word (30_encoding.md R71), so every
term is an instruction some word encodes. -/
inductive Instr where
  /-- `00E0` CLS, 40_display.md R100. -/
  | cls
  /-- `00EE` RET, 41_control_flow.md R124. -/
  | ret
  /-- `1nnn` JP nnn, 41_control_flow.md R125. -/
  | jp (nnn : Imm12)
  /-- `2nnn` CALL nnn, 41_control_flow.md R122. -/
  | call (nnn : Imm12)
  /-- `3xnn` SE Vx, nn, 41_control_flow.md R127. -/
  | seByte (x : Reg) (nn : Byte)
  /-- `4xnn` SNE Vx, nn, 41_control_flow.md R128. -/
  | sneByte (x : Reg) (nn : Byte)
  /-- `5xy0` SE Vx, Vy, 41_control_flow.md R129. -/
  | seReg (x y : Reg)
  /-- `6xnn` LD Vx, nn, 42_alu.md R152. -/
  | ldByte (x : Reg) (nn : Byte)
  /-- `7xnn` ADD Vx, nn, 42_alu.md R153. -/
  | addByte (x : Reg) (nn : Byte)
  /-- `8xy0` LD Vx, Vy, 42_alu.md R154. -/
  | ldReg (x y : Reg)
  /-- `8xy1` OR Vx, Vy, 42_alu.md R155. -/
  | orReg (x y : Reg)
  /-- `8xy2` AND Vx, Vy, 42_alu.md R156. -/
  | andReg (x y : Reg)
  /-- `8xy3` XOR Vx, Vy, 42_alu.md R157. -/
  | xorReg (x y : Reg)
  /-- `8xy4` ADD Vx, Vy, 42_alu.md R158. -/
  | addReg (x y : Reg)
  /-- `8xy5` SUB Vx, Vy, 42_alu.md R159. -/
  | subReg (x y : Reg)
  /-- `8xy6` SHR Vx, Vy, 42_alu.md R162; the y field is kept and not used (R163). -/
  | shr (x y : Reg)
  /-- `8xy7` SUBN Vx, Vy, 42_alu.md R161. -/
  | subnReg (x y : Reg)
  /-- `8xyE` SHL Vx, Vy, 42_alu.md R164; the y field is kept and not used (R163). -/
  | shl (x y : Reg)
  /-- `9xy0` SNE Vx, Vy, 41_control_flow.md R130. -/
  | sneReg (x y : Reg)
  /-- `Annn` LD I, nnn, 43_index_memory.md R181. -/
  | ldI (nnn : Imm12)
  /-- `Bnnn` JP V0, nnn, 41_control_flow.md R131. -/
  | jpV0 (nnn : Imm12)
  /-- `Cxnn` RND Vx, nn, 42_alu.md R165. -/
  | rnd (x : Reg) (nn : Byte)
  /-- `Dxyn` DRW Vx, Vy, n, 40_display.md R101; n is the sprite's height, 0 to 15. -/
  | drw (x y : Reg) (n : Fin 16)
  /-- `Ex9E` SKP Vx, 44_keypad.md R201. -/
  | skp (x : Reg)
  /-- `ExA1` SKNP Vx, 44_keypad.md R202. -/
  | sknp (x : Reg)
  /-- `Fx07` LD Vx, DT, 45_timers.md R210. -/
  | ldVxDt (x : Reg)
  /-- `Fx0A` LD Vx, K, 44_keypad.md R204. -/
  | ldVxK (x : Reg)
  /-- `Fx15` LD DT, Vx, 45_timers.md R211. -/
  | ldDtVx (x : Reg)
  /-- `Fx18` LD ST, Vx, 45_timers.md R212. -/
  | ldStVx (x : Reg)
  /-- `Fx1E` ADD I, Vx, 43_index_memory.md R183. -/
  | addI (x : Reg)
  /-- `Fx29` LD F, Vx, 43_index_memory.md R184. -/
  | ldF (x : Reg)
  /-- `Fx33` LD B, Vx, 43_index_memory.md R185. -/
  | ldBcd (x : Reg)
  /-- `Fx55` LD [I], Vx, 43_index_memory.md R186. -/
  | storeRegs (x : Reg)
  /-- `Fx65` LD Vx, [I], 43_index_memory.md R187. -/
  | loadRegs (x : Reg)
  deriving DecidableEq, Repr

end Sys2Proof
end

