-- ==== Sys2Proof/Decode.lean ====
section
/-! DEFINITION. The decoder (30_encoding.md R70 to R79): from bytes or a word to an instruction, rejecting by name; the
encoder, from the same formats (R76); and the decoder as spec/opcode_table.json numbers an instruction's bits. -/

namespace Sys2Proof

/-- Why bytes are no instruction. -/
inductive DecodeError where
  /-- Fewer than the two bytes of an instruction (30_encoding.md R70). -/
  | truncated
  /-- The word is illegal (30_encoding.md R79). -/
  | unrecognized (w : Word)
  deriving DecidableEq, Repr

/-- The word of two consecutive bytes, the high byte at the lower address (20_memory.md R52). -/
def wordOfBytes (high low : Byte) : Word := high ++ low

/-- `class`, w[15:12] (30_encoding.md R71). -/
def fieldClass (w : Word) : Fin 16 := (w.extractLsb' 12 4).toFin

/-- `x`, w[11:8] (30_encoding.md R71). -/
def fieldX (w : Word) : Reg := (w.extractLsb' 8 4).toFin

/-- `y`, w[7:4] (30_encoding.md R71). -/
def fieldY (w : Word) : Reg := (w.extractLsb' 4 4).toFin

/-- `n`, w[3:0] (30_encoding.md R71). -/
def fieldN (w : Word) : Fin 16 := (w.extractLsb' 0 4).toFin

/-- `nn`, w[7:0] (30_encoding.md R71). -/
def fieldNn (w : Word) : Byte := w.extractLsb' 0 8

/-- `nnn`, w[11:0] (30_encoding.md R71). -/
def fieldNnn (w : Word) : Imm12 := w.extractLsb' 0 12

/-- Class 8, dispatched on n (30_encoding.md R78). -/
def decodeClass8 (w : Word) : Except DecodeError Instr :=
  let x := fieldX w
  let y := fieldY w
  match fieldN w with
  | 0x0 => .ok (.ldReg x y)
  | 0x1 => .ok (.orReg x y)
  | 0x2 => .ok (.andReg x y)
  | 0x3 => .ok (.xorReg x y)
  | 0x4 => .ok (.addReg x y)
  | 0x5 => .ok (.subReg x y)
  | 0x6 => .ok (.shr x y)
  | 0x7 => .ok (.subnReg x y)
  | 0xE => .ok (.shl x y)
  | _ => .error (.unrecognized w)

/-- Class E, dispatched on nn (30_encoding.md R78). -/
def decodeClassE (w : Word) : Except DecodeError Instr :=
  if fieldNn w = 0x9E then .ok (.skp (fieldX w))
  else if fieldNn w = 0xA1 then .ok (.sknp (fieldX w))
  else .error (.unrecognized w)

/-- Class F, dispatched on nn (30_encoding.md R78). -/
def decodeClassF (w : Word) : Except DecodeError Instr :=
  let x := fieldX w
  if fieldNn w = 0x07 then .ok (.ldVxDt x)
  else if fieldNn w = 0x0A then .ok (.ldVxK x)
  else if fieldNn w = 0x15 then .ok (.ldDtVx x)
  else if fieldNn w = 0x18 then .ok (.ldStVx x)
  else if fieldNn w = 0x1E then .ok (.addI x)
  else if fieldNn w = 0x29 then .ok (.ldF x)
  else if fieldNn w = 0x33 then .ok (.ldBcd x)
  else if fieldNn w = 0x55 then .ok (.storeRegs x)
  else if fieldNn w = 0x65 then .ok (.loadRegs x)
  else .error (.unrecognized w)

/-- `Decode` (30_encoding.md R78): total on every word, reading nothing but the word (R73). For class 0 the whole word
must match; for classes 5 and 9 the low nibble must be 0 (R77, 90_conflicts.md C6). -/
def decodeWord (w : Word) : Except DecodeError Instr :=
  match fieldClass w with
  | 0x0 =>
    if w = 0x00E0 then .ok .cls else if w = 0x00EE then .ok .ret else .error (.unrecognized w)
  | 0x1 => .ok (.jp (fieldNnn w))
  | 0x2 => .ok (.call (fieldNnn w))
  | 0x3 => .ok (.seByte (fieldX w) (fieldNn w))
  | 0x4 => .ok (.sneByte (fieldX w) (fieldNn w))
  | 0x5 => if fieldN w = 0 then .ok (.seReg (fieldX w) (fieldY w)) else .error (.unrecognized w)
  | 0x6 => .ok (.ldByte (fieldX w) (fieldNn w))
  | 0x7 => .ok (.addByte (fieldX w) (fieldNn w))
  | 0x8 => decodeClass8 w
  | 0x9 => if fieldN w = 0 then .ok (.sneReg (fieldX w) (fieldY w)) else .error (.unrecognized w)
  | 0xA => .ok (.ldI (fieldNnn w))
  | 0xB => .ok (.jpV0 (fieldNnn w))
  | 0xC => .ok (.rnd (fieldX w) (fieldNn w))
  | 0xD => .ok (.drw (fieldX w) (fieldY w) (fieldN w))
  | 0xE => decodeClassE w
  | 0xF => decodeClassF w
  | ⟨k + 16, h⟩ => absurd h (by omega)

/-- The decoder on bytes: it consumes exactly two (30_encoding.md R70) and gives the instruction with the bytes left. -/
def decodeBytes : List Byte → Except DecodeError (Instr × List Byte)
  | high :: low :: rest =>
    match decodeWord (wordOfBytes high low) with
    | .ok i => .ok (i, rest)
    | .error e => .error e
  | _ => .error .truncated

/-- Formats F0 and FA over a class and a 12-bit field (30_encoding.md R76). -/
def packA (cls : BitVec 4) (nnn : Imm12) : Word := cls ++ nnn

/-- Formats FXB and FXS: class, x, and a byte, immediate or subcode (30_encoding.md R76). -/
def packXB (cls : BitVec 4) (x : Reg) (nn : Byte) : Word := cls ++ (BitVec.ofFin x : BitVec 4) ++ nn

/-- Formats FXY and FXYN: class, x, y, and a nibble, height or subcode (30_encoding.md R76). -/
def packXYN (cls : BitVec 4) (x y n : Fin 16) : Word :=
  cls ++ (BitVec.ofFin x : BitVec 4) ++ (BitVec.ofFin y : BitVec 4) ++ (BitVec.ofFin n : BitVec 4)

/-- The word of an instruction (30_encoding.md R76, R77). -/
def encodeWord : Instr → Word
  | .cls => packA 0x0 0x0E0
  | .ret => packA 0x0 0x0EE
  | .jp nnn => packA 0x1 nnn
  | .call nnn => packA 0x2 nnn
  | .seByte x nn => packXB 0x3 x nn
  | .sneByte x nn => packXB 0x4 x nn
  | .seReg x y => packXYN 0x5 x y 0x0
  | .ldByte x nn => packXB 0x6 x nn
  | .addByte x nn => packXB 0x7 x nn
  | .ldReg x y => packXYN 0x8 x y 0x0
  | .orReg x y => packXYN 0x8 x y 0x1
  | .andReg x y => packXYN 0x8 x y 0x2
  | .xorReg x y => packXYN 0x8 x y 0x3
  | .addReg x y => packXYN 0x8 x y 0x4
  | .subReg x y => packXYN 0x8 x y 0x5
  | .shr x y => packXYN 0x8 x y 0x6
  | .subnReg x y => packXYN 0x8 x y 0x7
  | .shl x y => packXYN 0x8 x y 0xE
  | .sneReg x y => packXYN 0x9 x y 0x0
  | .ldI nnn => packA 0xA nnn
  | .jpV0 nnn => packA 0xB nnn
  | .rnd x nn => packXB 0xC x nn
  | .drw x y n => packXYN 0xD x y n
  | .skp x => packXB 0xE x 0x9E
  | .sknp x => packXB 0xE x 0xA1
  | .ldVxDt x => packXB 0xF x 0x07
  | .ldVxK x => packXB 0xF x 0x0A
  | .ldDtVx x => packXB 0xF x 0x15
  | .ldStVx x => packXB 0xF x 0x18
  | .addI x => packXB 0xF x 0x1E
  | .ldF x => packXB 0xF x 0x29
  | .ldBcd x => packXB 0xF x 0x33
  | .storeRegs x => packXB 0xF x 0x55
  | .loadRegs x => packXB 0xF x 0x65

/-- The two bytes of a word as memory holds them, the high byte first (20_memory.md R52). -/
def bytesOfWord (w : Word) : List Byte := [w.extractLsb' 8 8, w.extractLsb' 0 8]

/-- The bytes of an instruction in memory. -/
def encode (i : Instr) : List Byte := bytesOfWord (encodeWord i)

/-- The word whose bits, numbered as spec/opcode_table.json numbers them, are the low `nbits` bits of `w`, every bit
above them 0: the table has one 16-bit word a row, bit 0 its least significant bit. -/
def tableWord (nbits w : Nat) : Word := BitVec.ofNat 16 (w % 2 ^ nbits)

/-- What the decoder reads from an instruction whose bits are given as the opcode table numbers them: the word is laid
out as memory holds it and decoded. -/
def decodeTableWord (nbits w : Nat) : Option Instr :=
  match decodeBytes (bytesOfWord (tableWord nbits w)) with
  | .ok (i, _) => some i
  | .error _ => none

end Sys2Proof
end

