-- ==== Sys2Proof/Machine/State.lean ====
section
/-! DEFINITION. The state of the block (10_state.md), as plain data; its fatal conditions and run status
(60_exceptions.md R221); why a step could stop (it never does) and why a host call is refused; the state after reset
(10_state.md R37). -/

namespace Sys2Proof.Machine

/-- The fatal conditions, with the information each records (60_exceptions.md R221). -/
inductive Condition where
  /-- Code 1: the program file is unreadable. Raised by Reset (70_reset_and_hazards.md R261). -/
  | loadFailure
  /-- Code 2: an illegal word was executed (30_encoding.md R79). -/
  | unrecognizedInstruction (w : Word)
  /-- Code 3: 2nnn with sp = 16 (41_control_flow.md R121). -/
  | stackOverflow
  /-- Code 4: 00EE with sp = 0 (41_control_flow.md R123). -/
  | stackUnderflow
  /-- Code 5: Dxyn, Fx33, Fx55 or Fx65 at an address of 4096 or more; the least such address (20_memory.md R55). -/
  | addressOutOfRange (a : Nat)
  /-- Code 6: a fetch with pc ≥ 0xFFF; the pc (30_encoding.md R72). -/
  | fetchOutOfRange (p : Word)
  /-- Code 7: Ex9E or ExA1 with Vx > 15; the register's value (44_keypad.md R200). -/
  | keyIndexOutOfRange (v : Byte)
  /-- Code 8: Fx29 with Vx > 15; the register's value (43_index_memory.md R184). -/
  | fontDigitOutOfRange (v : Byte)
  deriving DecidableEq, Repr

/-- Whether the run may continue (10_state.md R31). -/
inductive Status where
  /-- "Loaded and runnable". -/
  | running
  /-- A fatal condition ended the run; only Reset leaves this state (30_encoding.md R91, 60_exceptions.md R224). -/
  | halted (c : Condition)
  deriving DecidableEq, Repr

/-- Why the machine stops without a next state: never. Every fatal condition of this hardware is a run status in a next
state (60_exceptions.md R220, R222; log entry 8), so nothing raises a fault and the type has no constructor. Safe. -/
inductive Fault
  deriving DecidableEq, Repr

/-- Why a call is refused. No step is ever refused; the last two are answers to host calls outside the interface. -/
inductive Refusal where
  /-- Raised only by an arm of `exec` whose instruction has no meaning yet; no arm is left so. Safe. -/
  | notModelled (mnemonic : String)
  /-- Raised by Reset for an image longer than 3584 bytes; its length (70_reset_and_hazards.md R261). Safe. -/
  | imageTooLong (length : Nat)
  /-- Raised by SetKey for an index above 15; the index (60_exceptions.md R246). Safe. -/
  | keyOutsideInterface (k : Nat)
  deriving DecidableEq, Repr

/-- The framebuffer: 32 rows of 64 pixels, row-major (10_state.md R29). -/
abbrev Frame := Vector (Vector Bool 64) 32

/-- The address space as the bytes that differ from their reset contents, addresses rising (20_memory.md R50;
log entry 10). -/
abbrev Memory := List Host.Cell

/-- The state of the block (10_state.md). -/
structure State where
  /-- V0..VF (R20). -/
  v : Vector Byte 16
  /-- I, the index register (R24). -/
  i : Word
  /-- The program counter (R25). -/
  pc : Word
  /-- The call stack's 16 entries, stale ones included (R26, R35). -/
  stack : Vector Word 16
  /-- The number of live stack entries, 0 to 16 (R26). -/
  sp : Fin 17
  /-- The delay timer (R27). -/
  delay : Byte
  /-- The sound timer (R27). -/
  sound : Byte
  /-- Key k is pressed (R28). -/
  key : Vector Bool 16
  /-- The framebuffer (R29). -/
  fb : Frame
  /-- The framebuffer changed since the host last looked (R30). -/
  dirty : Bool
  /-- The address space (R32). -/
  mem : Memory
  /-- The run status (R31). -/
  status : Status
  /-- The model's own: how many draws of RAND and KEYSEL the run has taken (log entry 6). -/
  draws : Nat
  deriving DecidableEq, Repr

/-- Every pixel unset (40_display.md R100). -/
def blankFrame : Frame := Vector.replicate 32 (Vector.replicate 64 false)

/-- The state right after a successful reset with nothing placed: Reset with the empty image (10_state.md R37,
70_reset_and_hazards.md R260). Memory lists nothing: every byte has its reset contents. -/
def State.reset : State where
  v := Vector.replicate 16 0
  i := 0
  pc := 0x200
  stack := Vector.replicate 16 0
  sp := 0
  delay := 0
  sound := 0
  key := Vector.replicate 16 false
  fb := blankFrame
  dirty := false
  mem := []
  status := .running
  draws := 0

end Sys2Proof.Machine
end

