-- ==== Sys2Proof/Machine/Ops.lean ====
section
/-! DEFINITION. The named operations over the state: one update per field, memory, the framebuffer, the call stack, the
program counter, raising a fatal condition, the fetch, and the timers' countdown with the end of a step. -/

namespace Sys2Proof.Machine

/-! ### One update per field -/

def State.setRegs (s : State) (r : Vector Byte 16) : State := { s with v := r }
def State.setI (s : State) (w : Word) : State := { s with i := w }
def State.setPc (s : State) (w : Word) : State := { s with pc := w }
def State.setStack (s : State) (k : Vector Word 16) : State := { s with stack := k }
def State.setSp (s : State) (n : Fin 17) : State := { s with sp := n }
def State.setDelay (s : State) (b : Byte) : State := { s with delay := b }
def State.setSound (s : State) (b : Byte) : State := { s with sound := b }
def State.setKeys (s : State) (k : Vector Bool 16) : State := { s with key := k }
def State.setFb (s : State) (f : Frame) : State := { s with fb := f }
def State.setDirty (s : State) (b : Bool) : State := { s with dirty := b }
def State.setMem (s : State) (m : Memory) : State := { s with mem := m }
def State.setStatus (s : State) (t : Status) : State := { s with status := t }
def State.setDraws (s : State) (n : Nat) : State := { s with draws := n }

/-! ### Memory -/

/-- The number of bytes of the address space, addresses 0 to 0xFFF (20_memory.md R50). -/
def memSize : Nat := 4096

/-- The lowest address of a program image, and the entry address (00_scope.md R5). -/
def entryAddress : Nat := 0x200

/-- The longest program image (00_scope.md R5). -/
def maxImage : Nat := 3584

/-- The byte Reset leaves at an address when no program is placed: the font table at FONT_BASE..FONT_BASE+79, 0 elsewhere
(10_state.md R37, 20_memory.md R57). The first test settles every address at or above 0x200, which the font table never
reaches, whatever FONT_BASE is. -/
def fontByte (p : Params) (a : Nat) : Byte :=
  if entryAddress ≤ a then 0
  else if h : p.fontBase.val ≤ a ∧ a < p.fontBase.val + 80 then p.fontGlyphs[a - p.fontBase.val]
  else 0

/-- What an unlisted address reads as: its reset contents on this machine. -/
def initialByte (a : Nat) : Byte := fontByte Config.params a

/-- The byte at an address (20_memory.md R56: a read returns the byte last written there, or the reset value). -/
def Memory.read : Memory → Nat → Byte
  | [], a => initialByte a
  | (b, u) :: m, a => if a = b then u else Memory.read m a

/-- Write one byte (20_memory.md R56), keeping the list's form: addresses rising, no entry equal to the reset contents. -/
def Memory.write : Memory → Nat → Byte → Memory
  | [], a, u => if u = initialByte a then [] else [(a, u)]
  | (b, t) :: m, a, u =>
    if a < b then (if u = initialByte a then (b, t) :: m else (a, u) :: (b, t) :: m)
    else if a = b then (if u = initialByte a then m else (a, u) :: m)
    else (b, t) :: Memory.write m a u

/-- Write bytes at ascending addresses, in order (20_memory.md R52). -/
def Memory.writeBytes : Memory → Nat → List Byte → Memory
  | m, _, [] => m
  | m, a, u :: us => Memory.writeBytes (Memory.write m a u) (a + 1) us

/-- The `n` bytes at ascending addresses from `a` (20_memory.md R52). -/
def Memory.readBytes (m : Memory) : Nat → Nat → List Byte
  | _, 0 => []
  | a, n + 1 => Memory.read m a :: Memory.readBytes m (a + 1) n

/-- The list's form from address `low` on: addresses at least `low`, rising, inside the address space, and no entry equal
to the byte an unlisted address reads as. -/
def Memory.wfFrom : Nat → Memory → Bool
  | _, [] => true
  | low, (b, u) :: m => low ≤ b && b < memSize && u != initialByte b && Memory.wfFrom (b + 1) m

/-- The canonical form of memory: equal memories are equal lists. -/
def Memory.wf (m : Memory) : Bool := Memory.wfFrom 0 m

/-- The byte of the state's memory at an address. -/
def State.readByte (s : State) (a : Nat) : Byte := Memory.read s.mem a

/-- Store bytes at ascending addresses; the instruction has checked the addresses (60_exceptions.md R222). -/
def State.storeBytes (s : State) (a : Nat) (us : List Byte) : State := s.setMem (Memory.writeBytes s.mem a us)

/-- Bytes a..a+n-1 checked before any access: `none` when all exist, or else the least address of 4096 or more
(43_index_memory.md R180, 40_display.md R107; no address is used when n = 0). -/
def firstOutOfRange (a n : Nat) : Option Nat :=
  if n = 0 ∨ a + n ≤ memSize then none else some (max a memSize)

/-! ### The framebuffer -/

/-- The pixel at column x, row y (10_state.md R29). -/
def Frame.get (f : Frame) (x : Fin 64) (y : Fin 32) : Bool := f[y][x]

/-- Invert the pixel at column x, row y. -/
def Frame.flip (f : Frame) (x : Fin 64) (y : Fin 32) : Frame := f.set y (f[y].set x (!f[y][x]))

/-! ### The program counter -/

/-- The advance over the two bytes of the instruction, before its effect (30_encoding.md R90). -/
def State.advance (s : State) : State := s.setPc (s.pc + 2)

/-- "Skip next instruction" when the condition holds, after the advance (41_control_flow.md R126). -/
def State.skipIf (s : State) (c : Bool) : State := s.setPc (if c then s.pc + 2 else s.pc)

/-- Back to the instruction just advanced over (44_keypad.md R204). -/
def State.rewind (s : State) : State := s.setPc (s.pc - 2)

/-! ### The call stack -/

/-- `Push` (41_control_flow.md R121): `none` when the stack is full. -/
def State.push (s : State) (w : Word) : Option State :=
  if h : s.sp.val < 16 then some ((s.setStack (s.stack.set s.sp.val w)).setSp ⟨s.sp.val + 1, by omega⟩)
  else none

/-- `Pop` (41_control_flow.md R123): `none` when the stack is empty; the popped entry keeps its value. -/
def State.pop (s : State) : Option (Word × State) :=
  if h : 0 < s.sp.val then some (s.stack[s.sp.val - 1], s.setSp ⟨s.sp.val - 1, by omega⟩)
  else none

/-! ### Fatal conditions -/

/-- `raise C(info)` (60_exceptions.md R222), applied to the state before the step: the only change is the status. -/
def State.raise (s : State) (c : Condition) : State := s.setStatus (.halted c)

/-! ### Fetch -/

/-- `Fetch(pc)` (30_encoding.md R72): `none` when the second byte lies beyond the address space. -/
def State.fetchWord (s : State) : Option Word :=
  if s.pc.toNat + 1 ≤ 0xFFF then some (wordOfBytes (s.readByte s.pc.toNat) (s.readByte (s.pc.toNat + 1)))
  else none

/-- Fetch and decode, with the condition a step raises where there is no instruction (30_encoding.md R90; the order of
60_exceptions.md R223). -/
def State.fetchInstr (s : State) : Except Condition Instr :=
  match s.fetchWord with
  | none => .error (.fetchOutOfRange s.pc)
  | some w =>
    match decodeWord w with
    | .ok i => .ok i
    | .error _ => .error (.unrecognizedInstruction w)

/-- Store a word where the step fetches next, the high byte at pc (20_memory.md R52); nothing where the fetch cannot
read. -/
def State.placeWord (s : State) (w : Word) : State :=
  if s.pc.toNat + 1 ≤ 0xFFF then s.storeBytes s.pc.toNat (bytesOfWord w) else s

/-! ### The timers and the end of a step -/

/-- One timer's countdown (60_exceptions.md R240). -/
def countDown (t : Byte) : Byte := if t = 0 then 0 else t - 1

/-- `Tick` (60_exceptions.md R240). -/
def State.tick (s : State) : State := (s.setDelay (countDown s.delay)).setSound (countDown s.sound)

/-- A timer at the end of a completed step, by policy (60_exceptions.md R241). A timer at 0 stays 0 under both. -/
def policyCountDown (p : TimerPolicy) (t : Byte) : Byte :=
  if t = 0 then 0
  else
    match p with
    | .perStep => countDown t
    | .externalTick => t

/-- The tick at the end of a completed step, by policy (30_encoding.md R90, 60_exceptions.md R241). Written timer by
timer, so that everything but a nonzero timer is known whatever the policy is. -/
def State.policyTick (p : TimerPolicy) (s : State) : State :=
  (s.setDelay (policyCountDown p s.delay)).setSound (policyCountDown p s.sound)

/-- The end of a step: a step that raised does not tick (60_exceptions.md R222, R241). -/
def State.endStep (s : State) : State :=
  match s.status with
  | .running => s.policyTick Config.params.timerPolicy
  | .halted _ => s

/-- `State.endStep` on an outcome. -/
def finishStep : Host.Outcome State Fault Refusal → Host.Outcome State Fault Refusal
  | .next s => .next s.endStep
  | .fault r => .fault r
  | .refused r => .refused r

end Sys2Proof.Machine
end

