-- ==== Sys2Proof/Machine/Operands.lean ====
section
/-! DEFINITION. The operand forms: general registers, immediates, blocks of registers, keys and font glyphs. -/

namespace Sys2Proof.Machine

/-- `V[r]` (00_scope.md R10, 30_encoding.md R74). -/
def State.reg (s : State) (r : Reg) : Byte := s.v[r.val]

/-- `V[r] <- b` (00_scope.md R10). -/
def State.setReg (s : State) (r : Reg) (b : Byte) : State := s.setRegs (s.v.set r.val b)

/-- `zext_16` of the 12-bit immediate (30_encoding.md R75). -/
def addressOf (nnn : Imm12) : Word := nnn.zeroExtend 16

/-- `zext_16` of a register's value (00_scope.md R8). -/
def wordOf (b : Byte) : Word := b.zeroExtend 16

/-- V0..Vx inclusive, in order (43_index_memory.md R186). -/
def State.regsUpTo (s : State) (x : Reg) : List Byte := s.v.toList.take (x.val + 1)

/-- `V[k] <- ` the k-th byte of the list, from register `k` on (43_index_memory.md R187). -/
def writeRegsFrom : Vector Byte 16 → Nat → List Byte → Vector Byte 16
  | r, _, [] => r
  | r, k, b :: bs => writeRegsFrom (r.setIfInBounds k b) (k + 1) bs

/-- `KeyAt(v)` (44_keypad.md R200): `none` when no key has that index. -/
def State.keyAt (s : State) (b : Byte) : Option Bool :=
  if h : b.toNat < 16 then some s.key[b.toNat] else none

/-- The sixteen key indices. -/
def allKeys : List (Fin 16) := [0, 1, 2, 3, 4, 5, 6, 7, 8, 9, 10, 11, 12, 13, 14, 15]

/-- S, the indices of the pressed keys (44_keypad.md R204). -/
def State.pressedKeys (s : State) : List (Fin 16) := allKeys.filter (fun k => s.key[k.val])

/-- `draw KEYSEL(S)` (44_keypad.md R205): some element of S, named by the draw `d`; `none` when S is empty. With one key
pressed the draw is that key. -/
def chooseKey (d : Nat) : List (Fin 16) → Option (Fin 16)
  | [] => none
  | [k] => some k
  | k :: ks => (k :: ks)[d % (ks.length + 1)]?

/-- The address of the glyph of a digit, `FONT_BASE + 5 * d` (43_index_memory.md R184); d is at most 15. -/
def glyphAddress (p : Params) (d : Byte) : Word := BitVec.ofNat 16 (p.fontBase.val + 5 * d.toNat)

/-- The hundreds, tens and units digits of a byte (43_index_memory.md R185). -/
def bcdDigits (b : Byte) : List Byte :=
  [BitVec.ofNat 8 (b.toNat / 100), BitVec.ofNat 8 (b.toNat / 10 % 10), BitVec.ofNat 8 (b.toNat % 10)]

end Sys2Proof.Machine
end

