-- ==== Sys2Proof/Machine/Flags.lean ====
section
/-! DEFINITION. The flag computations (42_alu.md): every flag is a value of VF, written last (R151). -/

namespace Sys2Proof.Machine

/-- 8xy4: the 8-bit sum overflows (42_alu.md R158). -/
def carryOut (a b : Byte) : Bool := 255 < a.toNat + b.toNat

/-- `NoBorrow(a, b)` (42_alu.md R160): `a ≥ b` under GE, `a > b` under GT; the parameter matters only when a = b. -/
def noBorrow (cmp : BorrowCompare) (a b : Byte) : Bool :=
  decide (b.toNat < a.toNat) || (decide (a = b) && decide (cmp = .ge))

/-- 8xy6: the bit shifted out, `a[0]` (42_alu.md R162). -/
def bitShiftedRight (a : Byte) : Bool := a.getLsbD 0

/-- 8xyE: the bit shifted out, `a[7]` (42_alu.md R164). -/
def bitShiftedLeft (a : Byte) : Bool := a.getLsbD 7

/-- Write a result to Vx and after it the flag to VF, so that with x = 0xF the flag is what remains (42_alu.md R151). -/
def State.setRegFlag (s : State) (x : Reg) (result : Byte) (flag : Bool) : State :=
  (s.setReg x result).setReg regVF (boolByte flag)

end Sys2Proof.Machine
end

