-- ==== Sys2Proof/Machine/Alu.lean ====
section
/-! DEFINITION. The meanings of the register loads, the ALU and the random instruction (42_alu.md). Each is applied to the
state before the step, and advances the pc before its effect (30_encoding.md R90). -/

namespace Sys2Proof.Machine

/-- `6xnn`, 42_alu.md R152. -/
def execLdByte (x : Reg) (nn : Byte) (s : State) : Host.Outcome State Fault Refusal :=
  .next (s.advance.setReg x nn)

/-- `7xnn`, 42_alu.md R153: 8-bit wraparound, no flag. -/
def execAddByte (x : Reg) (nn : Byte) (s : State) : Host.Outcome State Fault Refusal :=
  .next (s.advance.setReg x (s.reg x + nn))

/-- `8xy0`, 42_alu.md R154. -/
def execLdReg (x y : Reg) (s : State) : Host.Outcome State Fault Refusal :=
  .next (s.advance.setReg x (s.reg y))

/-- `8xy1`, 42_alu.md R155. -/
def execOrReg (x y : Reg) (s : State) : Host.Outcome State Fault Refusal :=
  .next (s.advance.setReg x (s.reg x ||| s.reg y))

/-- `8xy2`, 42_alu.md R156. -/
def execAndReg (x y : Reg) (s : State) : Host.Outcome State Fault Refusal :=
  .next (s.advance.setReg x (s.reg x &&& s.reg y))

/-- `8xy3`, 42_alu.md R157. -/
def execXorReg (x y : Reg) (s : State) : Host.Outcome State Fault Refusal :=
  .next (s.advance.setReg x (s.reg x ^^^ s.reg y))

/-- `8xy4`, 42_alu.md R158. -/
def execAddReg (x y : Reg) (s : State) : Host.Outcome State Fault Refusal :=
  .next (s.advance.setRegFlag x (s.reg x + s.reg y) (carryOut (s.reg x) (s.reg y)))

/-- `8xy5`, 42_alu.md R159. -/
def execSubReg (x y : Reg) (s : State) : Host.Outcome State Fault Refusal :=
  .next (s.advance.setRegFlag x (s.reg x - s.reg y)
    (noBorrow Config.params.borrowCompare (s.reg x) (s.reg y)))

/-- `8xy6`, 42_alu.md R162; Vy is not read (R163). -/
def execShr (x _y : Reg) (s : State) : Host.Outcome State Fault Refusal :=
  .next (s.advance.setRegFlag x (s.reg x >>> 1) (bitShiftedRight (s.reg x)))

/-- `8xy7`, 42_alu.md R161. -/
def execSubnReg (x y : Reg) (s : State) : Host.Outcome State Fault Refusal :=
  .next (s.advance.setRegFlag x (s.reg y - s.reg x)
    (noBorrow Config.params.borrowCompare (s.reg y) (s.reg x)))

/-- `8xyE`, 42_alu.md R164; Vy is not read (R163). -/
def execShl (x _y : Reg) (s : State) : Host.Outcome State Fault Refusal :=
  .next (s.advance.setRegFlag x (s.reg x <<< 1) (bitShiftedLeft (s.reg x)))

/-- `Cxnn`, 42_alu.md R165: a fresh draw, masked. -/
def execRnd (x : Reg) (nn : Byte) (s : State) : Host.Outcome State Fault Refusal :=
  .next ((s.advance.setReg x (Config.rand s.draws &&& nn)).setDraws (s.draws + 1))

end Sys2Proof.Machine
end

