-- ==== Sys2Proof/Machine/Control.lean ====
section
/-! DEFINITION. The meanings of the control-flow instructions (41_control_flow.md). -/

namespace Sys2Proof.Machine

/-- `00EE`, 41_control_flow.md R124. -/
def execRet (s : State) : Host.Outcome State Fault Refusal :=
  match s.pop with
  | none => .next (s.raise .stackUnderflow)
  | some (w, s') => .next (s'.setPc w)

/-- `1nnn`, 41_control_flow.md R125. -/
def execJp (nnn : Imm12) (s : State) : Host.Outcome State Fault Refusal :=
  .next (s.setPc (addressOf nnn))

/-- `2nnn`, 41_control_flow.md R122: the address pushed is that of the next instruction. -/
def execCall (nnn : Imm12) (s : State) : Host.Outcome State Fault Refusal :=
  match s.advance.push s.advance.pc with
  | none => .next (s.raise .stackOverflow)
  | some s' => .next (s'.setPc (addressOf nnn))

/-- `3xnn`, 41_control_flow.md R127. -/
def execSeByte (x : Reg) (nn : Byte) (s : State) : Host.Outcome State Fault Refusal :=
  .next (s.advance.skipIf (s.reg x == nn))

/-- `4xnn`, 41_control_flow.md R128. -/
def execSneByte (x : Reg) (nn : Byte) (s : State) : Host.Outcome State Fault Refusal :=
  .next (s.advance.skipIf (s.reg x != nn))

/-- `5xy0`, 41_control_flow.md R129. -/
def execSeReg (x y : Reg) (s : State) : Host.Outcome State Fault Refusal :=
  .next (s.advance.skipIf (s.reg x == s.reg y))

/-- `9xy0`, 41_control_flow.md R130. -/
def execSneReg (x y : Reg) (s : State) : Host.Outcome State Fault Refusal :=
  .next (s.advance.skipIf (s.reg x != s.reg y))

/-- `Bnnn`, 41_control_flow.md R131: the sum is not reduced to 12 bits. -/
def execJpV0 (nnn : Imm12) (s : State) : Host.Outcome State Fault Refusal :=
  .next (s.setPc (wordOf (s.reg regV0) + addressOf nnn))

end Sys2Proof.Machine
end

