-- ==== Sys2Proof/Machine/Display.lean ====
section
/-! DEFINITION. The sprite datapath and the meanings of the display instructions (40_display.md). -/

namespace Sys2Proof.Machine

/-- The pixel of sprite row r, column c, drawn from the coordinates vx, vy (40_display.md R102, R106). Where the sum of
the reduced origin and the offset stays on the screen, WRAP and CLIP agree; past an edge WRAP reduces it and CLIP drops
the bit. -/
def pixelAt (edge : DrawEdge) (vx vy r c : Nat) : Option (Fin 64 × Fin 32) :=
  if h : vx % 64 + c < 64 ∧ vy % 32 + r < 32 then some (⟨vx % 64 + c, h.1⟩, ⟨vy % 32 + r, h.2⟩)
  else
    match edge with
    | .wrap => some (Fin.ofNat 64 (vx % 64 + c), Fin.ofNat 32 (vy % 32 + r))
    | .clip => none

/-- What a draw changes as it goes: the framebuffer, the collision and whether a pixel was touched (40_display.md
R101). -/
structure Canvas where
  fb : Frame
  collision : Bool
  touched : Bool
  deriving DecidableEq, Repr

/-- Draw one pixel by XOR with 1; the collision is a pixel that was set before (40_display.md R105). -/
def Canvas.drawPixel (k : Canvas) (at_ : Fin 64 × Fin 32) : Canvas where
  fb := k.fb.flip at_.1 at_.2
  collision := k.collision || k.fb.get at_.1 at_.2
  touched := true

/-- Draw sprite row r, column c, of the byte b: bit 7 - c, the most significant bit leftmost (40_display.md R103). -/
def Canvas.drawBit (edge : DrawEdge) (vx vy r : Nat) (b : Byte) (k : Canvas) (c : Nat) : Canvas :=
  if b.getLsbD (7 - c) then
    match pixelAt edge vx vy r c with
    | none => k
    | some q => k.drawPixel q
  else k

/-- The eight columns of a sprite row. -/
def columns : List Nat := [0, 1, 2, 3, 4, 5, 6, 7]

/-- Draw row r of a sprite (40_display.md R101). -/
def Canvas.drawRow (edge : DrawEdge) (vx vy r : Nat) (b : Byte) (k : Canvas) : Canvas :=
  columns.foldl (Canvas.drawBit edge vx vy r b) k

/-- Draw a sprite's rows from row r on (40_display.md R101). -/
def Canvas.drawRows (edge : DrawEdge) (vx vy : Nat) : Nat → List Byte → Canvas → Canvas
  | _, [], k => k
  | r, b :: bs, k => Canvas.drawRows edge vx vy (r + 1) bs (k.drawRow edge vx vy r b)

/-- A whole draw of the sprite's bytes onto a framebuffer (40_display.md R101). -/
def drawSprite (edge : DrawEdge) (vx vy : Byte) (rows : List Byte) (f : Frame) : Canvas :=
  Canvas.drawRows edge vx.toNat vy.toNat 0 rows ⟨f, false, false⟩

/-- `00E0`, 40_display.md R100. -/
def execCls (s : State) : Host.Outcome State Fault Refusal :=
  .next ((s.advance.setFb blankFrame).setDirty true)

/-- `Dxyn`, 40_display.md R101: the row addresses are checked first (R107), dirty is set only when a pixel was touched
(R104), and VF is the collision (R105). -/
def execDrw (x y : Reg) (n : Fin 16) (s : State) : Host.Outcome State Fault Refusal :=
  match firstOutOfRange s.i.toNat n.val with
  | some a => .next (s.raise (.addressOutOfRange a))
  | none =>
    let k := drawSprite Config.params.drawEdge (s.reg x) (s.reg y) (Memory.readBytes s.mem s.i.toNat n.val) s.fb
    .next (((s.advance.setFb k.fb).setReg regVF (boolByte k.collision)).setDirty (s.dirty || k.touched))

end Sys2Proof.Machine
end

