-- ==== Sys2Proof/Machine/IndexMemory.lean ====
section
/-! DEFINITION. The meanings of the index-register and memory instructions (43_index_memory.md). -/

namespace Sys2Proof.Machine

/-- `Annn`, 43_index_memory.md R181. -/
def execLdI (nnn : Imm12) (s : State) : Host.Outcome State Fault Refusal :=
  .next (s.advance.setI (addressOf nnn))

/-- `Fx1E`, 43_index_memory.md R183: 16-bit wraparound, no flag. -/
def execAddI (x : Reg) (s : State) : Host.Outcome State Fault Refusal :=
  .next (s.advance.setI (s.i + wordOf (s.reg x)))

/-- `Fx29`, 43_index_memory.md R184. -/
def execLdF (x : Reg) (s : State) : Host.Outcome State Fault Refusal :=
  if (s.reg x).toNat ≤ 15 then .next (s.advance.setI (glyphAddress Config.params (s.reg x)))
  else .next (s.raise (.fontDigitOutOfRange (s.reg x)))

/-- `Fx33`, 43_index_memory.md R185: three addresses checked, then written; I is kept (R188). -/
def execLdBcd (x : Reg) (s : State) : Host.Outcome State Fault Refusal :=
  match firstOutOfRange s.i.toNat 3 with
  | some a => .next (s.raise (.addressOutOfRange a))
  | none => .next (s.advance.storeBytes s.i.toNat (bcdDigits (s.reg x)))

/-- `Fx55`, 43_index_memory.md R186: x + 1 addresses checked, then written; I is kept (R188). -/
def execStoreRegs (x : Reg) (s : State) : Host.Outcome State Fault Refusal :=
  match firstOutOfRange s.i.toNat (x.val + 1) with
  | some a => .next (s.raise (.addressOutOfRange a))
  | none => .next (s.advance.storeBytes s.i.toNat (s.regsUpTo x))

/-- `Fx65`, 43_index_memory.md R187: x + 1 addresses checked, then read; I is kept (R188). -/
def execLoadRegs (x : Reg) (s : State) : Host.Outcome State Fault Refusal :=
  match firstOutOfRange s.i.toNat (x.val + 1) with
  | some a => .next (s.raise (.addressOutOfRange a))
  | none => .next (s.advance.setRegs (writeRegsFrom s.v 0 (Memory.readBytes s.mem s.i.toNat (x.val + 1))))

end Sys2Proof.Machine
end

