-- ==== Sys2Proof/Machine/Keypad.lean ====
section
/-! DEFINITION. The meanings of the key instructions (44_keypad.md). -/

namespace Sys2Proof.Machine

/-- `Ex9E`, 44_keypad.md R201. -/
def execSkp (x : Reg) (s : State) : Host.Outcome State Fault Refusal :=
  match s.keyAt (s.reg x) with
  | none => .next (s.raise (.keyIndexOutOfRange (s.reg x)))
  | some pressed => .next (s.advance.skipIf pressed)

/-- `ExA1`, 44_keypad.md R202. -/
def execSknp (x : Reg) (s : State) : Host.Outcome State Fault Refusal :=
  match s.keyAt (s.reg x) with
  | none => .next (s.raise (.keyIndexOutOfRange (s.reg x)))
  | some pressed => .next (s.advance.skipIf (!pressed))

/-- `Fx0A`, 44_keypad.md R204: with no key pressed the instruction runs again next step; else Vx is the key drawn among
the pressed ones (R205). -/
def execLdVxK (x : Reg) (s : State) : Host.Outcome State Fault Refusal :=
  match chooseKey (Config.keySel s.draws) s.pressedKeys with
  | none => .next s.advance.rewind
  | some k => .next ((s.advance.setReg x (BitVec.ofNat 8 k.val)).setDraws (s.draws + 1))

end Sys2Proof.Machine
end

