-- ==== Sys2Proof/Machine/Timers.lean ====
section
/-! DEFINITION. The meanings of the timer instructions (45_timers.md). The tick that may follow in the same step is the
step's (30_encoding.md R90, 45_timers.md R213). -/

namespace Sys2Proof.Machine

/-- `Fx07`, 45_timers.md R210. -/
def execLdVxDt (x : Reg) (s : State) : Host.Outcome State Fault Refusal :=
  .next (s.advance.setReg x s.delay)

/-- `Fx15`, 45_timers.md R211. -/
def execLdDtVx (x : Reg) (s : State) : Host.Outcome State Fault Refusal :=
  .next (s.advance.setDelay (s.reg x))

/-- `Fx18`, 45_timers.md R212. -/
def execLdStVx (x : Reg) (s : State) : Host.Outcome State Fault Refusal :=
  .next (s.advance.setSound (s.reg x))

end Sys2Proof.Machine
end

