-- ==== Sys2Proof/Machine/Step.lean ====
section
/-! DEFINITION. The step cycle (30_encoding.md R90) and the placing of a word where it fetches next. -/

namespace Sys2Proof.Machine

/-- `Step` (30_encoding.md R90). A halted state is returned unchanged (R91); a step with no instruction to run raises
(R72, R79); any other step runs the one instruction at pc and ends with the policy's tick. -/
def step (s : State) : Host.Outcome State Fault Refusal :=
  match s.status with
  | .halted _ => .next s
  | .running =>
    match s.fetchInstr with
    | .error c => .next (s.raise c)
    | .ok i => finishStep (exec i s)

/-- `s` with the instruction whose bits are `w`, numbered as spec/opcode_table.json numbers them, stored at pc, where
`step` fetches next; nothing else changes. It stands for the loader's placing of a program (log entry 11). -/
def State.withFetchWord (s : State) (nbits w : Nat) : State := s.placeWord (tableWord nbits w)

end Sys2Proof.Machine
end

