-- ==== Sys2Proof/Machine/Interface.lean ====
section
/-! DEFINITION. The operations the block offers its collaborators (60_exceptions.md R245), Reset among them
(70_reset_and_hazards.md R260, R261). They run only between steps, one at a time. -/

namespace Sys2Proof.Machine

/-- The state after a reset with an image of at most 3584 bytes: everything zeroed, the font in place, the image at 0x200
(70_reset_and_hazards.md R260). The model's draw counter goes on from `draws`, so that draws after a reset are fresh
(log entry 6). -/
def loadImage (draws : Nat) (image : List Byte) : State :=
  (State.reset.storeBytes entryAddress image).setDraws draws

/-- `Reset` (70_reset_and_hazards.md R260, R261): `none` is a program the loader reports unreadable. -/
def resetWith (draws : Nat) (image : Option (List Byte)) : Host.Outcome State Fault Refusal :=
  match image with
  | none => .next ((loadImage draws []).raise .loadFailure)
  | some bytes =>
    if bytes.length ≤ maxImage then .next (loadImage draws bytes) else .refused (.imageTooLong bytes.length)

/-- `TickTimers` (60_exceptions.md R242, R245): a Tick, under either policy. -/
def State.tickTimers (s : State) : State := s.tick

/-- `SetKey(k, b)` (60_exceptions.md R246): refused for k > 15. -/
def State.setKey (k : Nat) (b : Bool) (s : State) : Host.Outcome State Fault Refusal :=
  if h : k < 16 then .next (s.setKeys (s.key.set k b)) else .refused (.keyOutsideInterface k)

/-- `QueryFramebuffer` (60_exceptions.md R247): the pixels and the dirty flag. -/
def State.queryFramebuffer (s : State) : Frame × Bool := (s.fb, s.dirty)

/-- The host's reading of the timers, delay then sound (60_exceptions.md R247). -/
def State.queryTimers (s : State) : Byte × Byte := (s.delay, s.sound)

/-- `ClearDirty` (60_exceptions.md R248). -/
def State.clearDirty (s : State) : State := s.setDirty false

/-- `QueryStatus` (60_exceptions.md R245). -/
def State.queryStatus (s : State) : Status := s.status

/-- The code of a run status (60_exceptions.md R221). -/
def statusCode : Status → Nat
  | .running => 0
  | .halted .loadFailure => 1
  | .halted (.unrecognizedInstruction _) => 2
  | .halted .stackOverflow => 3
  | .halted .stackUnderflow => 4
  | .halted (.addressOutOfRange _) => 5
  | .halted (.fetchOutOfRange _) => 6
  | .halted (.keyIndexOutOfRange _) => 7
  | .halted (.fontDigitOutOfRange _) => 8

/-- The operations of the interface; nothing else reaches the state (60_exceptions.md R245). -/
inductive Operation where
  | reset (image : Option (List Byte))
  | step
  | tickTimers
  | setKey (k : Nat) (b : Bool)
  | queryFramebuffer
  | clearDirty
  | queryStatus
  deriving DecidableEq, Repr

/-- The state an operation leaves; the queries' answers are `State.queryFramebuffer`, `State.queryTimers` and
`State.queryStatus`. -/
def Operation.run (op : Operation) (s : State) : Host.Outcome State Fault Refusal :=
  match op with
  | .reset image => resetWith s.draws image
  | .step => Sys2Proof.Machine.step s
  | .tickTimers => .next s.tickTimers
  | .setKey k b => s.setKey k b
  | .queryFramebuffer => .next s
  | .clearDirty => .next s.clearDirty
  | .queryStatus => .next s

end Sys2Proof.Machine
end

