-- ==== Sys2Proof/Safety.lean ====
section
/-! DEFINITION. The terms claims are stated in: the fields of the state and what it means that an instruction changes only
some of them, the pixels a sprite covers, the invariants, and the states the block can be in. -/

namespace Sys2Proof.Machine

/-- The fields of the state. -/
inductive Field where
  | v | i | pc | stack | sp | delay | sound | key | fb | dirty | mem | status | draws
  deriving DecidableEq, Repr

/-- A field is the same in both states. Memory is compared through the read of one byte. -/
def Field.Same : Field → State → State → Prop
  | .v, s, t => ∀ r : Reg, t.reg r = s.reg r
  | .i, s, t => t.i = s.i
  | .pc, s, t => t.pc = s.pc
  | .stack, s, t => t.stack = s.stack
  | .sp, s, t => t.sp = s.sp
  | .delay, s, t => t.delay = s.delay
  | .sound, s, t => t.sound = s.sound
  | .key, s, t => t.key = s.key
  | .fb, s, t => t.fb = s.fb
  | .dirty, s, t => t.dirty = s.dirty
  | .mem, s, t => ∀ a : Nat, t.readByte a = s.readByte a
  | .status, s, t => t.status = s.status
  | .draws, s, t => t.draws = s.draws

/-- Every field but the listed ones is the same before (s) and after (t). -/
def OnlyChanges (fields : List Field) (s t : State) : Prop := ∀ f : Field, f ∉ fields → f.Same s t

/-- Every register but the listed ones is the same. -/
def RegsKeptBut (regs : List Reg) (s t : State) : Prop := ∀ r : Reg, r ∉ regs → t.reg r = s.reg r

/-- Every byte of memory outside addresses a..a+n-1 is the same. -/
def BytesKeptBut (a n : Nat) (s t : State) : Prop :=
  ∀ b : Nat, b < a ∨ a + n ≤ b → t.readByte b = s.readByte b

/-- The sprite bit in row r, column c of the sprite's bytes is set: bit 7 - c of byte r (40_display.md R103). -/
def SpriteBit (rows : List Byte) (r c : Nat) : Prop :=
  c < 8 ∧ ∃ b, rows[r]? = some b ∧ b.getLsbD (7 - c) = true

/-- Sprite row r, column c, drawn from the coordinates vx, vy, is the pixel (x, y): under WRAP the sums are reduced modulo
64 and 32 (40_display.md R102); under CLIP the origin is reduced and a sum past the screen is no pixel (R106). -/
def DrawnAt (edge : DrawEdge) (vx vy r c : Nat) (x : Fin 64) (y : Fin 32) : Prop :=
  match edge with
  | .wrap => x.val = (vx + c) % 64 ∧ y.val = (vy + r) % 32
  | .clip => x.val = vx % 64 + c ∧ y.val = vy % 32 + r

/-- Some set bit of the sprite, drawn from the coordinates vx, vy, falls on the pixel (x, y): the draw touches it. -/
def Touches (edge : DrawEdge) (vx vy : Byte) (rows : List Byte) (x : Fin 64) (y : Fin 32) : Prop :=
  ∃ r c, SpriteBit rows r c ∧ DrawnAt edge vx.toNat vy.toNat r c x y

/-- Dxyn, run in the state s, touches the pixel (px, py): a set bit of one of the n bytes from I falls on it, drawn from
the coordinates in Vx and Vy (40_display.md R101 to R103). -/
def DrawTouches (s : State) (x y : Reg) (n : Fin 16) (px : Fin 64) (py : Fin 32) : Prop :=
  ∃ r c, r < n.val ∧ c < 8 ∧ (s.readByte (s.i.toNat + r)).getLsbD (7 - c) = true ∧
    DrawnAt Config.params.drawEdge (s.reg x).toNat (s.reg y).toNat r c px py

/-- How many bytes of memory an instruction uses from I on; 0 for an instruction that uses none (20_memory.md R50). -/
def bytesUsed : Instr → Nat
  | .drw _ _ n => n.val
  | .ldBcd _ => 3
  | .storeRegs x | .loadRegs x => x.val + 1
  | .cls | .ret | .jp _ | .call _ | .seByte _ _ | .sneByte _ _ | .seReg _ _ | .ldByte _ _ | .addByte _ _ => 0
  | .ldReg _ _ | .orReg _ _ | .andReg _ _ | .xorReg _ _ | .addReg _ _ | .subReg _ _ | .shr _ _ | .subnReg _ _ => 0
  | .shl _ _ | .sneReg _ _ | .ldI _ | .jpV0 _ | .rnd _ _ | .skp _ | .sknp _ | .ldVxDt _ | .ldVxK _ | .ldDtVx _ => 0
  | .ldStVx _ | .addI _ | .ldF _ => 0

/-- The registers an instruction reads, by the table of 10_state.md R22. -/
def regsRead : Instr → List Reg
  | .seByte x _ | .sneByte x _ | .addByte x _ | .shr x _ | .shl x _ | .skp x | .sknp x => [x]
  | .ldDtVx x | .ldStVx x | .addI x | .ldF x | .ldBcd x => [x]
  | .seReg x y | .sneReg x y | .orReg x y | .andReg x y | .xorReg x y => [x, y]
  | .addReg x y | .subReg x y | .subnReg x y | .drw x y _ => [x, y]
  | .ldReg _ y => [y]
  | .jpV0 _ => [regV0]
  | .storeRegs x => (List.finRange 16).filter (· ≤ x)
  | .cls | .ret | .jp _ | .call _ | .ldByte _ _ | .ldI _ | .rnd _ _ | .ldVxDt _ | .ldVxK _ | .loadRegs _ => []

/-- The registers an instruction writes, by the table of 10_state.md R22. -/
def regsWritten : Instr → List Reg
  | .ldByte x _ | .addByte x _ | .rnd x _ | .ldVxDt x | .ldVxK x => [x]
  | .ldReg x _ | .orReg x _ | .andReg x _ | .xorReg x _ => [x]
  | .addReg x _ | .subReg x _ | .subnReg x _ | .shr x _ | .shl x _ => [x, regVF]
  | .drw _ _ _ => [regVF]
  | .loadRegs x => (List.finRange 16).filter (· ≤ x)
  | .cls | .ret | .jp _ | .call _ | .seByte _ _ | .sneByte _ _ | .seReg _ _ | .sneReg _ _ | .ldI _ | .jpV0 _ => []
  | .skp _ | .sknp _ | .ldDtVx _ | .ldStVx _ | .addI _ | .ldF _ | .ldBcd _ | .storeRegs _ => []

/-- The fields an instruction that raises nothing may change (10_state.md R22, R24 to R34; 20_memory.md R50). The draw
counter is the model's own. -/
def fieldsWritten : Instr → List Field
  | .cls => [.fb, .dirty, .pc]
  | .ret => [.sp, .pc]
  | .call _ => [.stack, .sp, .pc]
  | .jp _ | .jpV0 _ | .seByte _ _ | .sneByte _ _ | .seReg _ _ | .sneReg _ _ | .skp _ | .sknp _ => [.pc]
  | .ldByte _ _ | .addByte _ _ | .ldReg _ _ | .orReg _ _ | .andReg _ _ | .xorReg _ _ => [.v, .pc]
  | .addReg _ _ | .subReg _ _ | .subnReg _ _ | .shr _ _ | .shl _ _ | .ldVxDt _ | .loadRegs _ => [.v, .pc]
  | .rnd _ _ | .ldVxK _ => [.v, .pc, .draws]
  | .drw _ _ _ => [.fb, .v, .dirty, .pc]
  | .ldI _ | .addI _ | .ldF _ => [.i, .pc]
  | .ldDtVx _ => [.delay, .pc]
  | .ldStVx _ => [.sound, .pc]
  | .ldBcd _ | .storeRegs _ => [.mem, .pc]

/-- The run has met no fatal condition: what a safe run is on this hardware (60_exceptions.md R220). -/
def State.Running (s : State) : Prop := s.status = .running

/-- Memory is in its canonical form. -/
def State.Canonical (s : State) : Prop := Memory.wf s.mem = true

/-- The bounds of 41_control_flow.md R133. -/
def State.Bounded (s : State) : Prop :=
  s.pc.toNat ≤ 0x10FE ∧ ∀ k : Fin 16, (s.stack[k.val]).toNat ≤ 0x1000

/-- The states of the block: those Reset produces, and those the operations of the interface lead to
(70_reset_and_hazards.md R263). -/
inductive Reachable : State → Prop where
  | reset {draws : Nat} {image : Option (List Byte)} {s : State} :
      resetWith draws image = .next s → Reachable s
  | op {s t : State} (o : Operation) : Reachable s → o.run s = .next t → Reachable t

end Sys2Proof.Machine
end

