-- ==== Sys2Proof/Certificates/Slice0/Obligations.lean ====
section
/-! DEFINITION. The statements for the provers. `exec i s` is the instruction's effect on the state s before the step, the
pc's advance included; `step s` is the whole step. `OnlyChanges fs s t` says that every field but those of fs is the same in
t as in s, memory byte by byte. -/

open Sys2Proof Sys2Proof.Machine

/-! ### Encoding -/

/-- Decoding an instruction's encoding gives the instruction back, with every operand at every value, whatever follows it
in memory. -/
def Obligations.DecodeOfEncodeIsTheInstruction : Prop :=
  ∀ (i : Instr) (rest : List Byte),
    decodeWord (encodeWord i) = .ok i ∧ decodeBytes (encode i ++ rest) = .ok (i, rest)

/-- A word that decodes is the encoding of what it decodes to: no bit of a word is dropped. -/
def Obligations.EncodeOfDecodeIsTheWord : Prop :=
  ∀ (w : Word) (i : Instr), decodeWord w = .ok i → encodeWord i = w

/-- 30_encoding.md R77: the recognised words are exactly those of the table's rows, and a word decodes to the instruction
of a row it belongs to; every other word is rejected with the word itself. -/
def Obligations.RecognisedWordsAreTheTables : Prop :=
  ∀ w : Word,
    (legalWord w = true →
      ∃ i r, decodeWord w = .ok i ∧ r ∈ opcodeRows ∧ r.mnemonic = i.mnemonic ∧ r.matches w = true) ∧
    (legalWord w = false → decodeWord w = .error (.unrecognized w))

/-- No word belongs to two rows of the opcode table. -/
def Obligations.NoWordBelongsToTwoRows : Prop :=
  ∀ (w : Word) (r q : OpcodeRow), r ∈ opcodeRows → q ∈ opcodeRows → r.matches w = true → q.matches w = true → r = q

/-- 30_encoding.md R71: the six fields of a word, as the numbers its bits are. -/
def Obligations.FieldsOfAWord : Prop :=
  ∀ w : Word,
    (fieldClass w).val = w.toNat / 2 ^ 12 ∧ (fieldX w).val = w.toNat / 2 ^ 8 % 2 ^ 4 ∧
    (fieldY w).val = w.toNat / 2 ^ 4 % 2 ^ 4 ∧ (fieldN w).val = w.toNat % 2 ^ 4 ∧
    (fieldNn w).toNat = w.toNat % 2 ^ 8 ∧ (fieldNnn w).toNat = w.toNat % 2 ^ 12

/-- A word of each family, written out from the spec's encodings, decodes to the instruction it stands for. -/
def Obligations.SampleWordsDecode : Prop :=
  decodeTableWord 16 0x00E0 = some .cls ∧ decodeTableWord 16 0xD4A7 = some (.drw 4 0xA 7) ∧
  decodeTableWord 16 0x2ABC = some (.call 0xABC) ∧ decodeTableWord 16 0x9120 = some (.sneReg 1 2) ∧
  decodeTableWord 16 0x812E = some (.shl 1 2) ∧ decodeTableWord 16 0xC10F = some (.rnd 1 0x0F) ∧
  decodeTableWord 16 0xF265 = some (.loadRegs 2) ∧ decodeTableWord 16 0xF30A = some (.ldVxK 3) ∧
  decodeTableWord 16 0xF115 = some (.ldDtVx 1) ∧ decodeTableWord 16 0x0000 = none ∧ decodeTableWord 16 0x5121 = none

/-! ### The step cycle -/

/-- 30_encoding.md R90: when the two bytes at pc, the high one first, decode to the instruction i, the step is exec of i
followed by the end of the step: a tick by the timer policy where i raised nothing, and no more where it raised. -/
def Obligations.StepRunsTheDecodedInstruction : Prop :=
  ∀ (s : State) (w : Word) (i : Instr), s.Running → s.pc.toNat + 1 ≤ 0xFFF →
    w.toNat = (s.readByte s.pc.toNat).toNat * 256 + (s.readByte (s.pc.toNat + 1)).toNat → decodeWord w = .ok i →
    step s = finishStep (exec i s) ∧
    ∀ u, exec i s = .next u →
      (u.Running → step s = .next (u.policyTick Config.params.timerPolicy)) ∧
      (∀ c, u.status = .halted c → step s = .next u)

/-- A step with no instruction to run: a fetch beyond memory (92_eei_decisions.md D8) or an illegal word
(30_encoding.md R79) halts the run with its condition and changes nothing else (D3). -/
def Obligations.StepWithoutInstructionHalts : Prop :=
  ∀ s : State, s.Running →
    (0xFFF ≤ s.pc.toNat → step s = .next (s.setStatus (.halted (.fetchOutOfRange s.pc)))) ∧
    (∀ w : Word, s.pc.toNat < 0xFFF →
      w.toNat = (s.readByte s.pc.toNat).toNat * 256 + (s.readByte (s.pc.toNat + 1)).toNat → legalWord w = false →
      step s = .next (s.setStatus (.halted (.unrecognizedInstruction w))))

/-- A halted state is absorbing: any number of steps leaves it as it is (92_eei_decisions.md D4). -/
def Obligations.HaltedRunStaysAsItIs : Prop :=
  ∀ (s : State) (c : Condition) (k : Nat), s.status = .halted c → Host.Core.run Sys2Proof.core k s = .next s

/-- No step and no instruction stops the machine otherwise than by its status: each answers a next state
(60_exceptions.md, Fatal conditions; that a fatal condition is a next state is log entry 8). -/
def Obligations.EveryStepAnswersANextState : Prop :=
  (∀ (i : Instr) (s : State), ∃ t, exec i s = .next t) ∧ ∀ s : State, ∃ t, step s = .next t

/-- Fatal conditions are precise (92_eei_decisions.md D3): the step that raises changes the status and nothing else, no
timer among it. -/
def Obligations.RaisingStepChangesOnlyTheStatus : Prop :=
  ∀ (s t : State) (c : Condition), s.Running → step s = .next t → t.status = .halted c →
    t = s.setStatus (.halted c)

/-- Which instruction raises which condition, and when (60_exceptions.md, Fatal conditions; the conditions other than
UnrecognizedInstruction are the decisions D5, D6, D7, D10 and D11 of 92_eei_decisions.md). -/
def Obligations.ConditionsAnInstructionCanRaise : Prop :=
  ∀ (i : Instr) (s t : State) (c : Condition), s.Running → exec i s = .next t → t.status = .halted c →
    (∃ nnn, i = .call nnn ∧ s.sp.val = 16 ∧ c = .stackOverflow) ∨
    (i = .ret ∧ s.sp.val = 0 ∧ c = .stackUnderflow) ∨
    (∃ a, c = .addressOutOfRange a ∧ 4096 ≤ a ∧ s.i.toNat ≤ a ∧ a < s.i.toNat + bytesUsed i) ∨
    (∃ x, (i = .skp x ∨ i = .sknp x) ∧ 15 < (s.reg x).toNat ∧ c = .keyIndexOutOfRange (s.reg x)) ∨
    (∃ x, i = .ldF x ∧ 15 < (s.reg x).toNat ∧ c = .fontDigitOutOfRange (s.reg x))

/-! ### Whole-machine rules -/

/-- What every instruction that raises nothing may change: the fields the spec's rules name for it and no other
(10_state.md, Control and status registers; 20_memory.md, Address spaces). -/
def Obligations.InstructionsChangeOnlyTheirFields : Prop :=
  ∀ (i : Instr) (s t : State), exec i s = .next t → t.status = s.status → OnlyChanges (fieldsWritten i) s t

/-- Which registers an instruction writes and reads (10_state.md, General registers): it changes no register outside its
list of written ones, and a register outside its list of read ones has no influence on anything but itself. -/
def Obligations.InstructionsReadAndWriteOnlyTheirRegisters : Prop :=
  ∀ (i : Instr) (s t : State), exec i s = .next t →
    RegsKeptBut (regsWritten i) s t ∧
    ∀ (r : Reg) (b : Byte), r ∉ regsRead i →
      ∃ t', exec i (s.setReg r b) = .next t' ∧ OnlyChanges [.v] t t' ∧ ∀ q, q ≠ r → t'.reg q = t.reg q

/-- Only Fx33 and Fx55 write memory (20_memory.md, Address spaces), and no step writes a key (10_state.md, Keypad). -/
def Obligations.OnlyTwoInstructionsWriteMemory : Prop :=
  ∀ s t : State, step s = .next t →
    t.key = s.key ∧
    ((∀ x, s.fetchInstr ≠ .ok (.ldBcd x) ∧ s.fetchInstr ≠ .ok (.storeRegs x)) → t.mem = s.mem)

/-- No instruction reads the sound timer or the dirty flag (10_state.md, Timers; Framebuffer and dirty flag): their values
before a step have no influence on anything but themselves. -/
def Obligations.SoundAndDirtyAreNotRead : Prop :=
  ∀ (s t : State) (b : Byte) (d : Bool), step s = .next t →
    ∃ t', step ((s.setSound b).setDirty d) = .next t' ∧ OnlyChanges [.sound, .dirty] t t'

/-- The stale stack entries are not read (10_state.md, Hidden state): changing an entry at or above sp changes nothing a
step does, the live entries after it included. -/
def Obligations.StaleStackEntriesAreNotRead : Prop :=
  ∀ (s t : State) (k : Fin 16) (w : Word), s.sp.val ≤ k.val → step s = .next t →
    ∃ t', step (s.setStack (s.stack.set k.val w)) = .next t' ∧ OnlyChanges [.stack] t t' ∧
      ∀ j : Fin 16, j.val < t.sp.val → t'.stack[j.val] = t.stack[j.val]

/-! ### Display -/

/-- 40_display.md R100. -/
def Obligations.ClsClearsTheScreen : Prop :=
  (∀ w : Word, decodeWord w = .ok .cls ↔ w = 0x00E0) ∧
  ∀ s : State, ∃ t, exec .cls s = .next t ∧
    (∀ x y, t.fb.get x y = false) ∧ t.dirty = true ∧ t.pc = s.pc + 2 ∧ OnlyChanges [.fb, .dirty, .pc] s t

/-- Dxyn (40_display.md, Dxyn: draw a sprite), where its n bytes from I all exist: the touched pixels are inverted and no
other; VF is 1 when a touched pixel was set and 0 otherwise; dirty is set when a pixel was touched and kept otherwise
(D32). The bit order is D14, the edges are the parameter DRAW_EDGE (D24). -/
def Obligations.DrwDrawsTheSprite : Prop :=
  ∀ (x y : Reg) (n : Fin 16) (s : State), (∀ k, k < n.val → s.i.toNat + k < 4096) →
    ∃ t, exec (.drw x y n) s = .next t ∧
      (∀ px py, (DrawTouches s x y n px py → t.fb.get px py = !s.fb.get px py) ∧
        (¬ DrawTouches s x y n px py → t.fb.get px py = s.fb.get px py)) ∧
      ((∃ px py, DrawTouches s x y n px py ∧ s.fb.get px py = true) → t.reg regVF = 1) ∧
      ((¬ ∃ px py, DrawTouches s x y n px py ∧ s.fb.get px py = true) → t.reg regVF = 0) ∧
      (t.dirty = true ↔ s.dirty = true ∨ ∃ px py, DrawTouches s x y n px py) ∧
      t.pc = s.pc + 2 ∧ RegsKeptBut [regVF] s t ∧ OnlyChanges [.fb, .v, .dirty, .pc] s t

/-- Drawing the same sprite twice restores the framebuffer, where neither coordinate is in VF; the second draw reports a
collision exactly when a touched pixel was unset at first (40_display.md, Dxyn: draw a sprite, on XOR idempotence). -/
def Obligations.DrawingTwiceRestoresTheScreen : Prop :=
  ∀ (x y : Reg) (n : Fin 16) (s : State), x ≠ regVF → y ≠ regVF → (∀ k, k < n.val → s.i.toNat + k < 4096) →
    ∃ t u, exec (.drw x y n) s = .next t ∧ exec (.drw x y n) t = .next u ∧ u.fb = s.fb ∧
      ((∃ px py, DrawTouches s x y n px py ∧ s.fb.get px py = false) → u.reg regVF = 1) ∧
      ((¬ ∃ px py, DrawTouches s x y n px py ∧ s.fb.get px py = false) → u.reg regVF = 0)

/-! ### Control flow -/

/-- 1nnn sets pc to nnn and changes nothing else (41_control_flow.md, 1nnn: jump; the self-jump of its example is the next
statement). -/
def Obligations.JpSetsThePc : Prop :=
  (∀ w : Word, fieldClass w = 0x1 → decodeWord w = .ok (.jp (fieldNnn w))) ∧
  ∀ (nnn : Imm12) (s : State), ∃ t, exec (.jp nnn) s = .next t ∧ t.pc.toNat = nnn.toNat ∧ OnlyChanges [.pc] s t

/-- A 1nnn at its own address runs for ever: any number of steps leaves pc, and everything but the timers, as it is, and
raises nothing (41_control_flow.md, 1nnn: jump; 30_encoding.md, The step cycle). -/
def Obligations.SelfJumpRunsForEver : Prop :=
  ∀ (s : State) (nnn : Imm12) (k : Nat), s.Running → s.fetchInstr = .ok (.jp nnn) → s.pc.toNat = nnn.toNat →
    ∃ t, Host.Core.run Sys2Proof.core k s = .next t ∧ OnlyChanges [.delay, .sound] s t

/-- 2nnn with room on the stack pushes the address of the next instruction and jumps; with a full stack it raises
StackOverflow (92_eei_decisions.md D5) and changes nothing else (41_control_flow.md, 2nnn: call subroutine). -/
def Obligations.CallPushesAndJumps : Prop :=
  ∀ (nnn : Imm12) (s : State),
    (s.sp.val < 16 → ∃ t, exec (.call nnn) s = .next t ∧ t.pc.toNat = nnn.toNat ∧ t.sp.val = s.sp.val + 1 ∧
      (∀ k : Fin 16, t.stack[k.val] = if k.val = s.sp.val then s.pc + 2 else s.stack[k.val]) ∧
      OnlyChanges [.stack, .sp, .pc] s t) ∧
    (s.sp.val = 16 → exec (.call nnn) s = .next (s.setStatus (.halted .stackOverflow)))

/-- 00EE with an entry on the stack pops it into pc and keeps the entry (92_eei_decisions.md D28); with an empty stack it
raises StackUnderflow (D6) and changes nothing else (41_control_flow.md, 00EE: return from subroutine). -/
def Obligations.RetPopsThePc : Prop :=
  ∀ s : State,
    (∀ h : 0 < s.sp.val, ∃ t, exec .ret s = .next t ∧ t.sp.val = s.sp.val - 1 ∧ t.pc = s.stack[s.sp.val - 1] ∧
      OnlyChanges [.sp, .pc] s t) ∧
    (s.sp.val = 0 → exec .ret s = .next (s.setStatus (.halted .stackUnderflow)))

/-- A return undoes a call: run in any state with the stack and sp that 2nnn left, 00EE continues at the instruction after
the call and brings sp back (10_state.md, Call stack). -/
def Obligations.ReturnGoesBackToTheCall : Prop :=
  ∀ (nnn : Imm12) (s t u : State), s.sp.val < 16 → exec (.call nnn) s = .next t → u.stack = t.stack → u.sp = t.sp →
    ∃ r, exec .ret u = .next r ∧ r.pc = s.pc + 2 ∧ r.sp = s.sp

/-- 41_control_flow.md R127 and R128, and with them 5xy0 and 9xy0 (Skips): the four register skips. A word 5xyN or 9xyN
with N ≠ 0 is rejected (30_encoding.md, Opcode map). -/
def Obligations.RegisterSkips : Prop :=
  (∀ w : Word, fieldClass w = 0x3 → decodeWord w = .ok (.seByte (fieldX w) (fieldNn w))) ∧
  (∀ w : Word, fieldClass w = 0x4 → decodeWord w = .ok (.sneByte (fieldX w) (fieldNn w))) ∧
  (∀ w : Word, fieldClass w = 0x5 →
    decodeWord w = if fieldN w = 0 then .ok (.seReg (fieldX w) (fieldY w)) else .error (.unrecognized w)) ∧
  (∀ w : Word, fieldClass w = 0x9 →
    decodeWord w = if fieldN w = 0 then .ok (.sneReg (fieldX w) (fieldY w)) else .error (.unrecognized w)) ∧
  ∀ (x y : Reg) (nn : Byte) (s : State),
    (∃ t, exec (.seByte x nn) s = .next t ∧ t.pc = (if s.reg x = nn then s.pc + 4 else s.pc + 2) ∧
      OnlyChanges [.pc] s t) ∧
    (∃ t, exec (.sneByte x nn) s = .next t ∧ t.pc = (if s.reg x = nn then s.pc + 2 else s.pc + 4) ∧
      OnlyChanges [.pc] s t) ∧
    (∃ t, exec (.seReg x y) s = .next t ∧ t.pc = (if s.reg x = s.reg y then s.pc + 4 else s.pc + 2) ∧
      OnlyChanges [.pc] s t) ∧
    (∃ t, exec (.sneReg x y) s = .next t ∧ t.pc = (if s.reg x = s.reg y then s.pc + 2 else s.pc + 4) ∧
      OnlyChanges [.pc] s t)

/-- Bnnn jumps to V0 + nnn, not reduced to 12 bits (92_eei_decisions.md D21; 41_control_flow.md, Bnnn: jump with offset). -/
def Obligations.JpV0AddsV0 : Prop :=
  ∀ (nnn : Imm12) (s : State), ∃ t, exec (.jpV0 nnn) s = .next t ∧
    t.pc.toNat = (s.reg regV0).toNat + nnn.toNat ∧ OnlyChanges [.pc] s t

/-! ### Register loads, ALU and random -/

/-- 42_alu.md R152. -/
def Obligations.LdByteLoads : Prop :=
  (∀ w : Word, fieldClass w = 0x6 → decodeWord w = .ok (.ldByte (fieldX w) (fieldNn w))) ∧
  ∀ (x : Reg) (nn : Byte) (s : State), ∃ t, exec (.ldByte x nn) s = .next t ∧
    t.reg x = nn ∧ t.pc = s.pc + 2 ∧ RegsKeptBut [x] s t ∧ OnlyChanges [.v, .pc] s t

/-- 7xnn adds modulo 256 and writes no flag (92_eei_decisions.md D19; 42_alu.md, 6xnn, 7xnn). -/
def Obligations.AddByteWrapsWithoutFlag : Prop :=
  ∀ (x : Reg) (nn : Byte) (s : State), ∃ t, exec (.addByte x nn) s = .next t ∧
    (t.reg x).toNat = ((s.reg x).toNat + nn.toNat) % 256 ∧ t.pc = s.pc + 2 ∧
    RegsKeptBut [x] s t ∧ OnlyChanges [.v, .pc] s t

/-- 42_alu.md R154. -/
def Obligations.LdRegCopies : Prop :=
  (∀ w : Word, fieldClass w = 0x8 → fieldN w = 0x0 → decodeWord w = .ok (.ldReg (fieldX w) (fieldY w))) ∧
  ∀ (x y : Reg) (s : State), ∃ t, exec (.ldReg x y) s = .next t ∧
    t.reg x = s.reg y ∧ t.pc = s.pc + 2 ∧ RegsKeptBut [x] s t ∧ OnlyChanges [.v, .pc] s t

/-- 8xy1, 8xy2 and 8xy3 are the bitwise operations and leave VF alone unless it is Vx (92_eei_decisions.md D19; 42_alu.md,
8xy0 to 8xy3: move and logic). -/
def Obligations.LogicOperationsBitByBit : Prop :=
  ∀ (x y : Reg) (s : State),
    (∃ t, exec (.orReg x y) s = .next t ∧
      (∀ k, (t.reg x).getLsbD k = ((s.reg x).getLsbD k || (s.reg y).getLsbD k)) ∧ t.pc = s.pc + 2 ∧
      RegsKeptBut [x] s t ∧ OnlyChanges [.v, .pc] s t) ∧
    (∃ t, exec (.andReg x y) s = .next t ∧
      (∀ k, (t.reg x).getLsbD k = ((s.reg x).getLsbD k && (s.reg y).getLsbD k)) ∧ t.pc = s.pc + 2 ∧
      RegsKeptBut [x] s t ∧ OnlyChanges [.v, .pc] s t) ∧
    (∃ t, exec (.xorReg x y) s = .next t ∧
      (∀ k, (t.reg x).getLsbD k = ((s.reg x).getLsbD k ^^ (s.reg y).getLsbD k)) ∧ t.pc = s.pc + 2 ∧
      RegsKeptBut [x] s t ∧ OnlyChanges [.v, .pc] s t)

/-- 42_alu.md R158: the sum modulo 256 in Vx, the carry in VF, the flag remaining where x is 0xF. -/
def Obligations.AddRegCarries : Prop :=
  (∀ w : Word, fieldClass w = 0x8 → fieldN w = 0x4 → decodeWord w = .ok (.addReg (fieldX w) (fieldY w))) ∧
  ∀ (x y : Reg) (s : State), ∃ t, exec (.addReg x y) s = .next t ∧
    (x ≠ regVF → (t.reg x).toNat = ((s.reg x).toNat + (s.reg y).toNat) % 256) ∧
    t.reg regVF = (if 255 < (s.reg x).toNat + (s.reg y).toNat then 1 else 0) ∧
    t.pc = s.pc + 2 ∧ RegsKeptBut [x, regVF] s t ∧ OnlyChanges [.v, .pc] s t

/-- 8xy5 and 8xy7: the difference modulo 256 in Vx and the no-borrow flag in VF, by BORROW_COMPARE (92_eei_decisions.md
D23), the flag remaining where x is 0xF (42_alu.md, 8xy4, 8xy5, 8xy7: arithmetic with flag). -/
def Obligations.SubtractionsBorrow : Prop :=
  ∀ (x y : Reg) (s : State),
    (∃ t, exec (.subReg x y) s = .next t ∧
      (x ≠ regVF → (t.reg x).toNat = ((s.reg x).toNat + 256 - (s.reg y).toNat) % 256) ∧
      t.reg regVF = (match Config.params.borrowCompare with
        | .ge => if (s.reg y).toNat ≤ (s.reg x).toNat then 1 else 0
        | .gt => if (s.reg y).toNat < (s.reg x).toNat then 1 else 0) ∧
      t.pc = s.pc + 2 ∧ RegsKeptBut [x, regVF] s t ∧ OnlyChanges [.v, .pc] s t) ∧
    (∃ t, exec (.subnReg x y) s = .next t ∧
      (x ≠ regVF → (t.reg x).toNat = ((s.reg y).toNat + 256 - (s.reg x).toNat) % 256) ∧
      t.reg regVF = (match Config.params.borrowCompare with
        | .ge => if (s.reg x).toNat ≤ (s.reg y).toNat then 1 else 0
        | .gt => if (s.reg x).toNat < (s.reg y).toNat then 1 else 0) ∧
      t.pc = s.pc + 2 ∧ RegsKeptBut [x, regVF] s t ∧ OnlyChanges [.v, .pc] s t)

/-- 8xy6 and 8xyE shift Vx by one bit, the bit shifted out in VF, the flag remaining where x is 0xF (92_eei_decisions.md
D17), the same state for every y (42_alu.md, 8xy6, 8xyE: shifts). -/
def Obligations.ShiftsByOneBit : Prop :=
  ∀ (x : Reg) (s : State),
    (∃ t, (∀ y, exec (.shr x y) s = .next t) ∧
      (x ≠ regVF → (t.reg x).toNat = (s.reg x).toNat / 2) ∧ (t.reg regVF).toNat = (s.reg x).toNat % 2 ∧
      t.pc = s.pc + 2 ∧ RegsKeptBut [x, regVF] s t ∧ OnlyChanges [.v, .pc] s t) ∧
    (∃ t, (∀ y, exec (.shl x y) s = .next t) ∧
      (x ≠ regVF → (t.reg x).toNat = (s.reg x).toNat * 2 % 256) ∧ (t.reg regVF).toNat = (s.reg x).toNat / 128 ∧
      t.pc = s.pc + 2 ∧ RegsKeptBut [x, regVF] s t ∧ OnlyChanges [.v, .pc] s t)

/-- Cxnn loads the draw masked by nn and takes a fresh draw each time (92_eei_decisions.md D25; 42_alu.md, Cxnn: random
byte). The draw is a free value and the draw counter the model's own (log entry 6). -/
def Obligations.RndMasksAFreshDraw : Prop :=
  ∀ (x : Reg) (nn : Byte) (s : State), ∃ t, exec (.rnd x nn) s = .next t ∧
    (∀ k, (t.reg x).getLsbD k = ((Config.rand s.draws).getLsbD k && nn.getLsbD k)) ∧ t.draws = s.draws + 1 ∧
    t.pc = s.pc + 2 ∧ RegsKeptBut [x] s t ∧ OnlyChanges [.v, .pc, .draws] s t

/-! ### Index register and memory -/

/-- 43_index_memory.md R181. -/
def Obligations.LdILoadsAnAddress : Prop :=
  (∀ w : Word, fieldClass w = 0xA → decodeWord w = .ok (.ldI (fieldNnn w))) ∧
  ∀ (nnn : Imm12) (s : State), ∃ t, exec (.ldI nnn) s = .next t ∧
    t.i.toNat = nnn.toNat ∧ t.pc = s.pc + 2 ∧ OnlyChanges [.i, .pc] s t

/-- Fx1E adds Vx to I modulo 2^16 and writes no flag (92_eei_decisions.md D20; 43_index_memory.md, Fx1E: add to the index
register). -/
def Obligations.AddIWrapsWithoutFlag : Prop :=
  ∀ (x : Reg) (s : State), ∃ t, exec (.addI x) s = .next t ∧
    t.i.toNat = (s.i.toNat + (s.reg x).toNat) % 65536 ∧ t.pc = s.pc + 2 ∧ OnlyChanges [.i, .pc] s t

/-- Fx29 points I at the glyph of a digit up to 15 (92_eei_decisions.md D12), and raises FontDigitOutOfRange for any other
value (D11) and changes nothing else (43_index_memory.md, Fx29: point I at a font glyph). -/
def Obligations.LdFPointsAtTheGlyph : Prop :=
  ∀ (x : Reg) (s : State),
    ((s.reg x).toNat ≤ 15 → ∃ t, exec (.ldF x) s = .next t ∧
      t.i.toNat = Config.params.fontBase.val + 5 * (s.reg x).toNat ∧ t.pc = s.pc + 2 ∧ OnlyChanges [.i, .pc] s t) ∧
    (15 < (s.reg x).toNat → exec (.ldF x) s = .next (s.setStatus (.halted (.fontDigitOutOfRange (s.reg x)))))

/-- Fx33, where its three bytes exist, stores the hundreds, tens and units digits of Vx and keeps I (43_index_memory.md,
Fx33: store binary-coded decimal; the range condition and I are D7 and D18 of 92_eei_decisions.md). -/
def Obligations.LdBcdStoresTheDigits : Prop :=
  ∀ (x : Reg) (s : State), s.Canonical → s.i.toNat + 2 < 4096 → ∃ t, exec (.ldBcd x) s = .next t ∧
    (t.readByte s.i.toNat).toNat = (s.reg x).toNat / 100 ∧
    (t.readByte (s.i.toNat + 1)).toNat = (s.reg x).toNat / 10 % 10 ∧
    (t.readByte (s.i.toNat + 2)).toNat = (s.reg x).toNat % 10 ∧
    BytesKeptBut s.i.toNat 3 s t ∧ t.pc = s.pc + 2 ∧ OnlyChanges [.mem, .pc] s t

/-- Fx55, where its x + 1 bytes exist, stores V0 to Vx from I on and keeps I (43_index_memory.md, Fx55: store registers; D7
and D18 of 92_eei_decisions.md). -/
def Obligations.StoreRegsStoresV0ToVx : Prop :=
  ∀ (x : Reg) (s : State), s.Canonical → s.i.toNat + x.val < 4096 → ∃ t, exec (.storeRegs x) s = .next t ∧
    (∀ k : Reg, k ≤ x → t.readByte (s.i.toNat + k.val) = s.reg k) ∧
    BytesKeptBut s.i.toNat (x.val + 1) s t ∧ t.pc = s.pc + 2 ∧ OnlyChanges [.mem, .pc] s t

/-- Fx65, where its x + 1 bytes exist, loads V0 to Vx from I on, leaves the registers above x and keeps I
(43_index_memory.md, Fx65: load registers; D7 and D18 of 92_eei_decisions.md). -/
def Obligations.LoadRegsLoadsV0ToVx : Prop :=
  ∀ (x : Reg) (s : State), s.i.toNat + x.val < 4096 → ∃ t, exec (.loadRegs x) s = .next t ∧
    (∀ k : Reg, t.reg k = if k ≤ x then s.readByte (s.i.toNat + k.val) else s.reg k) ∧
    t.pc = s.pc + 2 ∧ OnlyChanges [.v, .pc] s t

/-- Dxyn, Fx33, Fx55 and Fx65 with an address of 4096 or more raise AddressOutOfRange with the least such address and
change nothing else (92_eei_decisions.md D7, D22, D3). -/
def Obligations.MemoryInstructionsTrapPastTheEnd : Prop :=
  ∀ (i : Instr) (s : State) (a : Nat), 4096 ≤ a → s.i.toNat ≤ a → a < s.i.toNat + bytesUsed i →
    (∀ b, s.i.toNat ≤ b → b < s.i.toNat + bytesUsed i → 4096 ≤ b → a ≤ b) →
    exec i s = .next (s.setStatus (.halted (.addressOutOfRange a)))

/-- A store is seen by the next fetch of that address (92_eei_decisions.md D30; 20_memory.md, Instruction-fetch coherence):
after Fx55 with x at least 1, the word fetched at I is V0 * 256 + V1. -/
def Obligations.StoreIsSeenByTheNextFetch : Prop :=
  ∀ (x : Reg) (s t u : State), s.Canonical → 1 ≤ x.val → s.i.toNat + x.val < 4096 →
    exec (.storeRegs x) s = .next t → u.mem = t.mem → u.pc = s.i →
    ∃ w, u.fetchWord = some w ∧ w.toNat = (s.reg 0).toNat * 256 + (s.reg 1).toNat

/-- After reset Fx29 points at the five bytes of the digit's glyph (10_state.md, Font glyphs; FONT_BASE and FONT_GLYPHS are
the parameters of D12 and D13 of 92_eei_decisions.md). -/
def Obligations.GlyphsLieWhereFx29Points : Prop :=
  ∀ (x : Reg) (s : State) (k : Nat) (hd : (s.reg x).toNat ≤ 15) (hk : k < 5), s.mem = State.reset.mem →
    ∃ t, exec (.ldF x) s = .next t ∧
      t.readByte (t.i.toNat + k) = Config.params.fontGlyphs[5 * (s.reg x).toNat + k]'(by omega)

/-! ### Keypad -/

/-- Ex9E and ExA1 skip by the level of the key Vx names, and raise KeyIndexOutOfRange where it names none
(92_eei_decisions.md D10) and change nothing else (44_keypad.md, Ex9E: skip if key pressed, ExA1: skip if key not
pressed). -/
def Obligations.KeySkips : Prop :=
  ∀ (x : Reg) (s : State),
    (∀ h : (s.reg x).toNat < 16,
      (∃ t, exec (.skp x) s = .next t ∧
        t.pc = (if s.key[(s.reg x).toNat] = true then s.pc + 4 else s.pc + 2) ∧ OnlyChanges [.pc] s t) ∧
      (∃ t, exec (.sknp x) s = .next t ∧
        t.pc = (if s.key[(s.reg x).toNat] = true then s.pc + 2 else s.pc + 4) ∧ OnlyChanges [.pc] s t)) ∧
    (15 < (s.reg x).toNat →
      exec (.skp x) s = .next (s.setStatus (.halted (.keyIndexOutOfRange (s.reg x)))) ∧
      exec (.sknp x) s = .next (s.setStatus (.halted (.keyIndexOutOfRange (s.reg x)))))

/-- With no key pressed Fx0A changes nothing, pc included, so that it runs again; with a key pressed it writes the index of
a pressed key to Vx and goes on (44_keypad.md, Fx0A: wait for a key). Which of several is left open (92_eei_decisions.md
D16); the draw counter is the model's own (log entry 7). -/
def Obligations.KeyWaitCompletesOnAKey : Prop :=
  (∀ w : Word, fieldClass w = 0xF → fieldNn w = 0x0A → decodeWord w = .ok (.ldVxK (fieldX w))) ∧
  ∀ (x : Reg) (s : State),
    ((∀ k : Fin 16, s.key[k.val] = false) → exec (.ldVxK x) s = .next s) ∧
    ((∃ k : Fin 16, s.key[k.val] = true) → ∃ t, exec (.ldVxK x) s = .next t ∧
      (∃ k : Fin 16, s.key[k.val] = true ∧ (t.reg x).toNat = k.val) ∧ t.pc = s.pc + 2 ∧
      RegsKeptBut [x] s t ∧ OnlyChanges [.v, .pc, .draws] s t)

/-- A program blocked in Fx0A is held only by the host: while no key is pressed, any number of steps changes nothing but
the timers (44_keypad.md, Fx0A: wait for a key). -/
def Obligations.KeyWaitBlocksWithoutAKey : Prop :=
  ∀ (s : State) (x : Reg) (k : Nat), s.Running → s.fetchInstr = .ok (.ldVxK x) →
    (∀ j : Fin 16, s.key[j.val] = false) →
    ∃ t, Host.Core.run Sys2Proof.core k s = .next t ∧ OnlyChanges [.delay, .sound] s t

/-! ### Timers -/

/-- 45_timers.md R210 and R211, and Fx18 with them: the effect of the three timer instructions, and the whole step, in which
Fx07 reads the timer before the tick and the tick follows Fx15's and Fx18's write. -/
def Obligations.TimerInstructions : Prop :=
  (∀ w : Word, fieldClass w = 0xF →
    (fieldNn w = 0x07 → decodeWord w = .ok (.ldVxDt (fieldX w))) ∧
    (fieldNn w = 0x15 → decodeWord w = .ok (.ldDtVx (fieldX w))) ∧
    (fieldNn w = 0x18 → decodeWord w = .ok (.ldStVx (fieldX w)))) ∧
  ∀ (x : Reg) (s : State),
    (∃ t, exec (.ldVxDt x) s = .next t ∧ t.reg x = s.delay ∧ t.pc = s.pc + 2 ∧ RegsKeptBut [x] s t ∧
      OnlyChanges [.v, .pc] s t) ∧
    (∃ t, exec (.ldDtVx x) s = .next t ∧ t.delay = s.reg x ∧ t.pc = s.pc + 2 ∧ OnlyChanges [.delay, .pc] s t) ∧
    (∃ t, exec (.ldStVx x) s = .next t ∧ t.sound = s.reg x ∧ t.pc = s.pc + 2 ∧ OnlyChanges [.sound, .pc] s t) ∧
    (s.Running → s.fetchInstr = .ok (.ldVxDt x) → ∃ t, step s = .next t ∧ t.reg x = s.delay ∧
      t.delay.toNat = match Config.params.timerPolicy with
        | .perStep => s.delay.toNat - 1
        | .externalTick => s.delay.toNat) ∧
    (s.Running → s.fetchInstr = .ok (.ldDtVx x) → ∃ t, step s = .next t ∧
      t.delay.toNat = match Config.params.timerPolicy with
        | .perStep => (s.reg x).toNat - 1
        | .externalTick => (s.reg x).toNat) ∧
    (s.Running → s.fetchInstr = .ok (.ldStVx x) → ∃ t, step s = .next t ∧
      t.sound.toNat = match Config.params.timerPolicy with
        | .perStep => (s.reg x).toNat - 1
        | .externalTick => (s.reg x).toNat)

/-- 60_exceptions.md R240: a Tick takes one from each nonzero timer and leaves a timer at 0; only a step of Fx15 (the delay
timer) or Fx18 (the sound timer) takes a timer away from 0. -/
def Obligations.TickCountsEachTimerDown : Prop :=
  (∀ s : State,
    (0 < s.delay.toNat → s.tick.delay.toNat = s.delay.toNat - 1) ∧ (s.delay.toNat = 0 → s.tick.delay.toNat = 0) ∧
    (0 < s.sound.toNat → s.tick.sound.toNat = s.sound.toNat - 1) ∧ (s.sound.toNat = 0 → s.tick.sound.toNat = 0) ∧
    OnlyChanges [.delay, .sound] s s.tick) ∧
  ∀ s t : State, step s = .next t →
    (s.delay.toNat = 0 → (∀ x, s.fetchInstr ≠ .ok (.ldDtVx x)) → t.delay.toNat = 0) ∧
    (s.sound.toNat = 0 → (∀ x, s.fetchInstr ≠ .ok (.ldStVx x)) → t.sound.toNat = 0)

/-- The tick at the end of a step, by policy (60_exceptions.md, The timer countdown state machine; 92_eei_decisions.md D1,
D2): a completed step whose instruction writes no timer leaves each timer counted down under PER_STEP, the waiting Fx0A
included, and as it was under EXTERNAL_TICK; the host's TickTimers ticks under both. -/
def Obligations.PolicyDecidesTheTick : Prop :=
  (∀ (s t : State) (i : Instr), s.Running → s.fetchInstr = .ok i → (∀ x, i ≠ .ldDtVx x ∧ i ≠ .ldStVx x) →
    step s = .next t → t.Running →
    (t.delay, t.sound) = match Config.params.timerPolicy with
      | .perStep => (s.tick.delay, s.tick.sound)
      | .externalTick => (s.delay, s.sound)) ∧
  ∀ s : State, Operation.run .tickTimers s = .next s.tick

/-! ### Reset and the host interface -/

/-- What Reset leaves, field by field and byte by byte, with an image of at most 3584 bytes (10_state.md, Reset values;
70_reset_and_hazards.md, Reset; the status is D3 of 92_eei_decisions.md). -/
def Obligations.ResetLeavesTheSpecsState : Prop :=
  ∀ (draws : Nat) (image : List Byte), image.length ≤ 3584 → ∃ t, resetWith draws (some image) = .next t ∧
    (∀ r, t.reg r = 0) ∧ t.i = 0 ∧ t.pc = 0x200 ∧ (∀ k : Fin 16, t.stack[k.val] = 0) ∧ t.sp = 0 ∧
    t.delay = 0 ∧ t.sound = 0 ∧ (∀ k : Fin 16, t.key[k.val] = false) ∧ (∀ x y, t.fb.get x y = false) ∧
    t.dirty = false ∧ t.status = .running ∧
    (∀ k (h : k < image.length), t.readByte (0x200 + k) = image[k]) ∧
    (∀ k (h : k < 80), t.readByte (Config.params.fontBase.val + k) = Config.params.fontGlyphs[k]) ∧
    (∀ a, (a < 0x200 ∨ 0x200 + image.length ≤ a) →
      (a < Config.params.fontBase.val ∨ Config.params.fontBase.val + 80 ≤ a) → t.readByte a = 0)

/-- A program reported unreadable gives the empty image's state, halted with LoadFailure; a longer image is refused
(70_reset_and_hazards.md, Reset; 92_eei_decisions.md D27). -/
def Obligations.ResetUnreadableOrTooLong : Prop :=
  (∀ draws, ∃ t, resetWith draws (some []) = .next t ∧
    resetWith draws none = .next (t.setStatus (.halted .loadFailure))) ∧
  ∀ (draws : Nat) (image : List Byte), 3584 < image.length →
    resetWith draws (some image) = .refused (.imageTooLong image.length)

/-- SetKey with an index up to 15 sets that key and nothing else; any other index is refused (60_exceptions.md, The host
interface; 92_eei_decisions.md D29). -/
def Obligations.SetKeySetsOneKey : Prop :=
  ∀ (s : State) (k : Nat) (b : Bool),
    (k < 16 → ∃ t, Operation.run (.setKey k b) s = .next t ∧
      (∀ j : Fin 16, t.key[j.val] = if j.val = k then b else s.key[j.val]) ∧ OnlyChanges [.key] s t) ∧
    (16 ≤ k → Operation.run (.setKey k b) s = .refused (.keyOutsideInterface k))

/-- 60_exceptions.md R247, R248: the framebuffer query gives the pixels and the dirty flag and changes nothing, the timers
may be read too, and ClearDirty clears the flag and changes nothing else. -/
def Obligations.QueriesAndClearDirty : Prop :=
  ∀ s : State,
    Operation.run .queryFramebuffer s = .next s ∧ s.queryFramebuffer = (s.fb, s.dirty) ∧
    s.queryTimers = (s.delay, s.sound) ∧
    ∃ t, Operation.run .clearDirty s = .next t ∧ t.dirty = false ∧ OnlyChanges [.dirty] s t

/-- Only Reset leaves a halted state: every other operation keeps the status (60_exceptions.md, Fatal conditions;
92_eei_decisions.md D4). -/
def Obligations.OnlyResetLeavesAHaltedState : Prop :=
  ∀ (s t : State) (c : Condition) (op : Operation), s.status = .halted c → (∀ image, op ≠ .reset image) →
    op.run s = .next t → t.status = .halted c

/-! ### Memory and invariants -/

/-- Two memories in canonical form that read alike are the same data. The form is the model's own (log entry 10). -/
def Obligations.EqualMemoriesAreEqualData : Prop :=
  ∀ m m' : Memory, Memory.wf m = true → Memory.wf m' = true →
    (∀ a, a < 4096 → Memory.read m a = Memory.read m' a) → m = m'

/-- The reset state meets the invariants (the memory's form is the model's own, log entry 10; the bounds are
41_control_flow.md, Bounds). -/
def Obligations.ResetMeetsTheInvariants : Prop :=
  State.reset.Canonical ∧ State.reset.Bounded

/-- Every step keeps memory in its canonical form: no address outside 0..4095 is ever listed (the form is the model's own,
log entry 10). -/
def Obligations.StepKeepsMemoryCanonical : Prop :=
  ∀ s t : State, s.Canonical → step s = .next t → t.Canonical

/-- Every step keeps pc at most 0x10FE and every stack entry at most 0x1000 (41_control_flow.md, Bounds). -/
def Obligations.StepKeepsThePcBounded : Prop :=
  ∀ s t : State, s.Bounded → step s = .next t → t.Bounded

/-- In every state of the block, reached from a Reset by any operations of the interface, memory is canonical, pc is at
most 0x10FE, every stack entry is at most 0x1000, and no advance or skip carries pc past 16 bits (41_control_flow.md,
Bounds). -/
def Obligations.ReachableStatesMeetTheInvariants : Prop :=
  ∀ s : State, Reachable s → s.Canonical ∧ s.Bounded ∧ s.pc.toNat + 4 < 65536
end

