-- ==== Sys2Proof/Laws/Decode.lean ====
section
/-! SUPPORT. The fields of a packed word, and of any word as quotients and remainders. -/

namespace Sys2Proof

/-! ### A word's fields as numbers (30_encoding.md R71) -/

theorem fieldClass_val (w : Word) : (fieldClass w).val = w.toNat / 4096 := by
  have := w.isLt
  simp [fieldClass, Nat.shiftRight_eq_div_pow]
  omega

theorem fieldX_val (w : Word) : (fieldX w).val = w.toNat / 256 % 16 := by
  simp [fieldX, Nat.shiftRight_eq_div_pow]

theorem fieldY_val (w : Word) : (fieldY w).val = w.toNat / 16 % 16 := by
  simp [fieldY, Nat.shiftRight_eq_div_pow]

theorem fieldN_val (w : Word) : (fieldN w).val = w.toNat % 16 := by
  simp [fieldN]

theorem fieldNn_toNat (w : Word) : (fieldNn w).toNat = w.toNat % 256 := by
  simp [fieldNn, BitVec.extractLsb'_toNat]

theorem fieldNnn_toNat (w : Word) : (fieldNnn w).toNat = w.toNat % 4096 := by
  simp [fieldNnn, BitVec.extractLsb'_toNat]

/-! ### A packed word as a number -/

theorem packA_toNat (c : BitVec 4) (nnn : Imm12) : (packA c nnn).toNat = c.toNat * 4096 + nnn.toNat := by
  rw [packA, BitVec.toNat_append, ← Nat.shiftLeft_add_eq_or_of_lt (by exact BitVec.isLt _), Nat.shiftLeft_eq]

theorem packXB_toNat (c : BitVec 4) (x : Reg) (nn : Byte) :
    (packXB c x nn).toNat = c.toNat * 4096 + x.val * 256 + nn.toNat := by
  rw [packXB, BitVec.toNat_append, ← Nat.shiftLeft_add_eq_or_of_lt (by exact BitVec.isLt _), Nat.shiftLeft_eq,
    BitVec.toNat_append, ← Nat.shiftLeft_add_eq_or_of_lt (by exact BitVec.isLt _), Nat.shiftLeft_eq]
  simp
  omega

theorem packXYN_toNat (c : BitVec 4) (x y n : Fin 16) :
    (packXYN c x y n).toNat = c.toNat * 4096 + x.val * 256 + y.val * 16 + n.val := by
  rw [packXYN, BitVec.toNat_append, ← Nat.shiftLeft_add_eq_or_of_lt (by exact BitVec.isLt _), Nat.shiftLeft_eq,
    BitVec.toNat_append, ← Nat.shiftLeft_add_eq_or_of_lt (by exact BitVec.isLt _), Nat.shiftLeft_eq,
    BitVec.toNat_append, ← Nat.shiftLeft_add_eq_or_of_lt (by exact BitVec.isLt _), Nat.shiftLeft_eq]
  simp
  omega

/-! ### The fields of a packed word -/

@[simp] theorem fieldClass_packA (c : BitVec 4) (nnn : Imm12) : fieldClass (packA c nnn) = c.toFin := by
  have h := nnn.isLt
  apply Fin.ext
  rw [fieldClass_val, packA_toNat]
  simp only [BitVec.val_toFin]
  omega

@[simp] theorem fieldNnn_packA (c : BitVec 4) (nnn : Imm12) : fieldNnn (packA c nnn) = nnn := by
  have h := nnn.isLt
  apply BitVec.eq_of_toNat_eq
  rw [fieldNnn_toNat, packA_toNat]
  omega

@[simp] theorem fieldClass_packXB (c : BitVec 4) (x : Reg) (nn : Byte) : fieldClass (packXB c x nn) = c.toFin := by
  have h := nn.isLt
  have hx := x.isLt
  apply Fin.ext
  rw [fieldClass_val, packXB_toNat]
  simp only [BitVec.val_toFin]
  omega

@[simp] theorem fieldX_packXB (c : BitVec 4) (x : Reg) (nn : Byte) : fieldX (packXB c x nn) = x := by
  have h := nn.isLt
  have hx := x.isLt
  apply Fin.ext
  rw [fieldX_val, packXB_toNat]
  omega

@[simp] theorem fieldNn_packXB (c : BitVec 4) (x : Reg) (nn : Byte) : fieldNn (packXB c x nn) = nn := by
  have h := nn.isLt
  apply BitVec.eq_of_toNat_eq
  rw [fieldNn_toNat, packXB_toNat]
  omega

@[simp] theorem fieldClass_packXYN (c : BitVec 4) (x y n : Fin 16) : fieldClass (packXYN c x y n) = c.toFin := by
  have hx := x.isLt
  have hy := y.isLt
  have hn := n.isLt
  apply Fin.ext
  rw [fieldClass_val, packXYN_toNat]
  simp only [BitVec.val_toFin]
  omega

@[simp] theorem fieldX_packXYN (c : BitVec 4) (x y n : Fin 16) : fieldX (packXYN c x y n) = x := by
  have hy := y.isLt
  have hn := n.isLt
  have hx := x.isLt
  apply Fin.ext
  rw [fieldX_val, packXYN_toNat]
  omega

@[simp] theorem fieldY_packXYN (c : BitVec 4) (x y n : Fin 16) : fieldY (packXYN c x y n) = y := by
  have hy := y.isLt
  have hn := n.isLt
  apply Fin.ext
  rw [fieldY_val, packXYN_toNat]
  omega

@[simp] theorem fieldN_packXYN (c : BitVec 4) (x y n : Fin 16) : fieldN (packXYN c x y n) = n := by
  have hn := n.isLt
  apply Fin.ext
  rw [fieldN_val, packXYN_toNat]
  omega

/-! ### Bytes and words -/

/-- A word's two bytes, put together, are the word (20_memory.md R52). -/
@[simp] theorem wordOfBytes_bytes (w : Word) : wordOfBytes (w.extractLsb' 8 8) (w.extractLsb' 0 8) = w := by
  apply BitVec.eq_of_toNat_eq
  have h := w.isLt
  rw [wordOfBytes, BitVec.toNat_append, ← Nat.shiftLeft_add_eq_or_of_lt (by exact BitVec.isLt _), Nat.shiftLeft_eq]
  simp [BitVec.extractLsb'_toNat, Nat.shiftRight_eq_div_pow]
  omega

/-- `Fetch(pc) = mem[pc] * 256 + mem[pc+1]` (20_memory.md R52). -/
theorem wordOfBytes_toNat (high low : Byte) : (wordOfBytes high low).toNat = high.toNat * 256 + low.toNat := by
  rw [wordOfBytes, BitVec.toNat_append, ← Nat.shiftLeft_add_eq_or_of_lt (by exact BitVec.isLt _), Nat.shiftLeft_eq]

/-- The decoder on a word's bytes is the decoder on the word. -/
theorem decodeBytes_bytesOfWord (w : Word) (rest : List Byte) :
    decodeBytes (bytesOfWord w ++ rest) =
      match decodeWord w with
      | .ok i => .ok (i, rest)
      | .error e => .error e := by
  cases h : decodeWord w <;> simp only [bytesOfWord, List.cons_append, List.nil_append, decodeBytes, wordOfBytes_bytes, h]

end Sys2Proof
end

