-- ==== Sys2Proof/Laws/State.lean ====
section
/-! SUPPORT. One lemma per field per update, true by rfl; the reads of a register and of a byte through each update. -/

namespace Sys2Proof.Machine

/-! ### setRegs -/

@[simp] theorem State.setRegs_v (s : State) (r : Vector Byte 16) : (s.setRegs r).v = r := rfl
@[simp] theorem State.setRegs_i (s : State) (r : Vector Byte 16) : (s.setRegs r).i = s.i := rfl
@[simp] theorem State.setRegs_pc (s : State) (r : Vector Byte 16) : (s.setRegs r).pc = s.pc := rfl
@[simp] theorem State.setRegs_stack (s : State) (r : Vector Byte 16) : (s.setRegs r).stack = s.stack := rfl
@[simp] theorem State.setRegs_sp (s : State) (r : Vector Byte 16) : (s.setRegs r).sp = s.sp := rfl
@[simp] theorem State.setRegs_delay (s : State) (r : Vector Byte 16) : (s.setRegs r).delay = s.delay := rfl
@[simp] theorem State.setRegs_sound (s : State) (r : Vector Byte 16) : (s.setRegs r).sound = s.sound := rfl
@[simp] theorem State.setRegs_key (s : State) (r : Vector Byte 16) : (s.setRegs r).key = s.key := rfl
@[simp] theorem State.setRegs_fb (s : State) (r : Vector Byte 16) : (s.setRegs r).fb = s.fb := rfl
@[simp] theorem State.setRegs_dirty (s : State) (r : Vector Byte 16) : (s.setRegs r).dirty = s.dirty := rfl
@[simp] theorem State.setRegs_mem (s : State) (r : Vector Byte 16) : (s.setRegs r).mem = s.mem := rfl
@[simp] theorem State.setRegs_status (s : State) (r : Vector Byte 16) : (s.setRegs r).status = s.status := rfl
@[simp] theorem State.setRegs_draws (s : State) (r : Vector Byte 16) : (s.setRegs r).draws = s.draws := rfl
@[simp] theorem State.setRegs_readByte (s : State) (r : Vector Byte 16) (l : Nat) : (s.setRegs r).readByte l = s.readByte l := rfl

/-! ### setI -/

@[simp] theorem State.setI_v (s : State) (w : Word) : (s.setI w).v = s.v := rfl
@[simp] theorem State.setI_i (s : State) (w : Word) : (s.setI w).i = w := rfl
@[simp] theorem State.setI_pc (s : State) (w : Word) : (s.setI w).pc = s.pc := rfl
@[simp] theorem State.setI_stack (s : State) (w : Word) : (s.setI w).stack = s.stack := rfl
@[simp] theorem State.setI_sp (s : State) (w : Word) : (s.setI w).sp = s.sp := rfl
@[simp] theorem State.setI_delay (s : State) (w : Word) : (s.setI w).delay = s.delay := rfl
@[simp] theorem State.setI_sound (s : State) (w : Word) : (s.setI w).sound = s.sound := rfl
@[simp] theorem State.setI_key (s : State) (w : Word) : (s.setI w).key = s.key := rfl
@[simp] theorem State.setI_fb (s : State) (w : Word) : (s.setI w).fb = s.fb := rfl
@[simp] theorem State.setI_dirty (s : State) (w : Word) : (s.setI w).dirty = s.dirty := rfl
@[simp] theorem State.setI_mem (s : State) (w : Word) : (s.setI w).mem = s.mem := rfl
@[simp] theorem State.setI_status (s : State) (w : Word) : (s.setI w).status = s.status := rfl
@[simp] theorem State.setI_draws (s : State) (w : Word) : (s.setI w).draws = s.draws := rfl
@[simp] theorem State.setI_reg (s : State) (w : Word) (q : Reg) : (s.setI w).reg q = s.reg q := rfl
@[simp] theorem State.setI_readByte (s : State) (w : Word) (l : Nat) : (s.setI w).readByte l = s.readByte l := rfl

/-! ### setPc -/

@[simp] theorem State.setPc_v (s : State) (w : Word) : (s.setPc w).v = s.v := rfl
@[simp] theorem State.setPc_i (s : State) (w : Word) : (s.setPc w).i = s.i := rfl
@[simp] theorem State.setPc_pc (s : State) (w : Word) : (s.setPc w).pc = w := rfl
@[simp] theorem State.setPc_stack (s : State) (w : Word) : (s.setPc w).stack = s.stack := rfl
@[simp] theorem State.setPc_sp (s : State) (w : Word) : (s.setPc w).sp = s.sp := rfl
@[simp] theorem State.setPc_delay (s : State) (w : Word) : (s.setPc w).delay = s.delay := rfl
@[simp] theorem State.setPc_sound (s : State) (w : Word) : (s.setPc w).sound = s.sound := rfl
@[simp] theorem State.setPc_key (s : State) (w : Word) : (s.setPc w).key = s.key := rfl
@[simp] theorem State.setPc_fb (s : State) (w : Word) : (s.setPc w).fb = s.fb := rfl
@[simp] theorem State.setPc_dirty (s : State) (w : Word) : (s.setPc w).dirty = s.dirty := rfl
@[simp] theorem State.setPc_mem (s : State) (w : Word) : (s.setPc w).mem = s.mem := rfl
@[simp] theorem State.setPc_status (s : State) (w : Word) : (s.setPc w).status = s.status := rfl
@[simp] theorem State.setPc_draws (s : State) (w : Word) : (s.setPc w).draws = s.draws := rfl
@[simp] theorem State.setPc_reg (s : State) (w : Word) (q : Reg) : (s.setPc w).reg q = s.reg q := rfl
@[simp] theorem State.setPc_readByte (s : State) (w : Word) (l : Nat) : (s.setPc w).readByte l = s.readByte l := rfl

/-! ### setStack -/

@[simp] theorem State.setStack_v (s : State) (k : Vector Word 16) : (s.setStack k).v = s.v := rfl
@[simp] theorem State.setStack_i (s : State) (k : Vector Word 16) : (s.setStack k).i = s.i := rfl
@[simp] theorem State.setStack_pc (s : State) (k : Vector Word 16) : (s.setStack k).pc = s.pc := rfl
@[simp] theorem State.setStack_stack (s : State) (k : Vector Word 16) : (s.setStack k).stack = k := rfl
@[simp] theorem State.setStack_sp (s : State) (k : Vector Word 16) : (s.setStack k).sp = s.sp := rfl
@[simp] theorem State.setStack_delay (s : State) (k : Vector Word 16) : (s.setStack k).delay = s.delay := rfl
@[simp] theorem State.setStack_sound (s : State) (k : Vector Word 16) : (s.setStack k).sound = s.sound := rfl
@[simp] theorem State.setStack_key (s : State) (k : Vector Word 16) : (s.setStack k).key = s.key := rfl
@[simp] theorem State.setStack_fb (s : State) (k : Vector Word 16) : (s.setStack k).fb = s.fb := rfl
@[simp] theorem State.setStack_dirty (s : State) (k : Vector Word 16) : (s.setStack k).dirty = s.dirty := rfl
@[simp] theorem State.setStack_mem (s : State) (k : Vector Word 16) : (s.setStack k).mem = s.mem := rfl
@[simp] theorem State.setStack_status (s : State) (k : Vector Word 16) : (s.setStack k).status = s.status := rfl
@[simp] theorem State.setStack_draws (s : State) (k : Vector Word 16) : (s.setStack k).draws = s.draws := rfl
@[simp] theorem State.setStack_reg (s : State) (k : Vector Word 16) (q : Reg) : (s.setStack k).reg q = s.reg q := rfl
@[simp] theorem State.setStack_readByte (s : State) (k : Vector Word 16) (l : Nat) : (s.setStack k).readByte l = s.readByte l := rfl

/-! ### setSp -/

@[simp] theorem State.setSp_v (s : State) (n : Fin 17) : (s.setSp n).v = s.v := rfl
@[simp] theorem State.setSp_i (s : State) (n : Fin 17) : (s.setSp n).i = s.i := rfl
@[simp] theorem State.setSp_pc (s : State) (n : Fin 17) : (s.setSp n).pc = s.pc := rfl
@[simp] theorem State.setSp_stack (s : State) (n : Fin 17) : (s.setSp n).stack = s.stack := rfl
@[simp] theorem State.setSp_sp (s : State) (n : Fin 17) : (s.setSp n).sp = n := rfl
@[simp] theorem State.setSp_delay (s : State) (n : Fin 17) : (s.setSp n).delay = s.delay := rfl
@[simp] theorem State.setSp_sound (s : State) (n : Fin 17) : (s.setSp n).sound = s.sound := rfl
@[simp] theorem State.setSp_key (s : State) (n : Fin 17) : (s.setSp n).key = s.key := rfl
@[simp] theorem State.setSp_fb (s : State) (n : Fin 17) : (s.setSp n).fb = s.fb := rfl
@[simp] theorem State.setSp_dirty (s : State) (n : Fin 17) : (s.setSp n).dirty = s.dirty := rfl
@[simp] theorem State.setSp_mem (s : State) (n : Fin 17) : (s.setSp n).mem = s.mem := rfl
@[simp] theorem State.setSp_status (s : State) (n : Fin 17) : (s.setSp n).status = s.status := rfl
@[simp] theorem State.setSp_draws (s : State) (n : Fin 17) : (s.setSp n).draws = s.draws := rfl
@[simp] theorem State.setSp_reg (s : State) (n : Fin 17) (q : Reg) : (s.setSp n).reg q = s.reg q := rfl
@[simp] theorem State.setSp_readByte (s : State) (n : Fin 17) (l : Nat) : (s.setSp n).readByte l = s.readByte l := rfl

/-! ### setDelay -/

@[simp] theorem State.setDelay_v (s : State) (b : Byte) : (s.setDelay b).v = s.v := rfl
@[simp] theorem State.setDelay_i (s : State) (b : Byte) : (s.setDelay b).i = s.i := rfl
@[simp] theorem State.setDelay_pc (s : State) (b : Byte) : (s.setDelay b).pc = s.pc := rfl
@[simp] theorem State.setDelay_stack (s : State) (b : Byte) : (s.setDelay b).stack = s.stack := rfl
@[simp] theorem State.setDelay_sp (s : State) (b : Byte) : (s.setDelay b).sp = s.sp := rfl
@[simp] theorem State.setDelay_delay (s : State) (b : Byte) : (s.setDelay b).delay = b := rfl
@[simp] theorem State.setDelay_sound (s : State) (b : Byte) : (s.setDelay b).sound = s.sound := rfl
@[simp] theorem State.setDelay_key (s : State) (b : Byte) : (s.setDelay b).key = s.key := rfl
@[simp] theorem State.setDelay_fb (s : State) (b : Byte) : (s.setDelay b).fb = s.fb := rfl
@[simp] theorem State.setDelay_dirty (s : State) (b : Byte) : (s.setDelay b).dirty = s.dirty := rfl
@[simp] theorem State.setDelay_mem (s : State) (b : Byte) : (s.setDelay b).mem = s.mem := rfl
@[simp] theorem State.setDelay_status (s : State) (b : Byte) : (s.setDelay b).status = s.status := rfl
@[simp] theorem State.setDelay_draws (s : State) (b : Byte) : (s.setDelay b).draws = s.draws := rfl
@[simp] theorem State.setDelay_reg (s : State) (b : Byte) (q : Reg) : (s.setDelay b).reg q = s.reg q := rfl
@[simp] theorem State.setDelay_readByte (s : State) (b : Byte) (l : Nat) : (s.setDelay b).readByte l = s.readByte l := rfl

/-! ### setSound -/

@[simp] theorem State.setSound_v (s : State) (b : Byte) : (s.setSound b).v = s.v := rfl
@[simp] theorem State.setSound_i (s : State) (b : Byte) : (s.setSound b).i = s.i := rfl
@[simp] theorem State.setSound_pc (s : State) (b : Byte) : (s.setSound b).pc = s.pc := rfl
@[simp] theorem State.setSound_stack (s : State) (b : Byte) : (s.setSound b).stack = s.stack := rfl
@[simp] theorem State.setSound_sp (s : State) (b : Byte) : (s.setSound b).sp = s.sp := rfl
@[simp] theorem State.setSound_delay (s : State) (b : Byte) : (s.setSound b).delay = s.delay := rfl
@[simp] theorem State.setSound_sound (s : State) (b : Byte) : (s.setSound b).sound = b := rfl
@[simp] theorem State.setSound_key (s : State) (b : Byte) : (s.setSound b).key = s.key := rfl
@[simp] theorem State.setSound_fb (s : State) (b : Byte) : (s.setSound b).fb = s.fb := rfl
@[simp] theorem State.setSound_dirty (s : State) (b : Byte) : (s.setSound b).dirty = s.dirty := rfl
@[simp] theorem State.setSound_mem (s : State) (b : Byte) : (s.setSound b).mem = s.mem := rfl
@[simp] theorem State.setSound_status (s : State) (b : Byte) : (s.setSound b).status = s.status := rfl
@[simp] theorem State.setSound_draws (s : State) (b : Byte) : (s.setSound b).draws = s.draws := rfl
@[simp] theorem State.setSound_reg (s : State) (b : Byte) (q : Reg) : (s.setSound b).reg q = s.reg q := rfl
@[simp] theorem State.setSound_readByte (s : State) (b : Byte) (l : Nat) : (s.setSound b).readByte l = s.readByte l := rfl

/-! ### setKeys -/

@[simp] theorem State.setKeys_v (s : State) (k : Vector Bool 16) : (s.setKeys k).v = s.v := rfl
@[simp] theorem State.setKeys_i (s : State) (k : Vector Bool 16) : (s.setKeys k).i = s.i := rfl
@[simp] theorem State.setKeys_pc (s : State) (k : Vector Bool 16) : (s.setKeys k).pc = s.pc := rfl
@[simp] theorem State.setKeys_stack (s : State) (k : Vector Bool 16) : (s.setKeys k).stack = s.stack := rfl
@[simp] theorem State.setKeys_sp (s : State) (k : Vector Bool 16) : (s.setKeys k).sp = s.sp := rfl
@[simp] theorem State.setKeys_delay (s : State) (k : Vector Bool 16) : (s.setKeys k).delay = s.delay := rfl
@[simp] theorem State.setKeys_sound (s : State) (k : Vector Bool 16) : (s.setKeys k).sound = s.sound := rfl
@[simp] theorem State.setKeys_key (s : State) (k : Vector Bool 16) : (s.setKeys k).key = k := rfl
@[simp] theorem State.setKeys_fb (s : State) (k : Vector Bool 16) : (s.setKeys k).fb = s.fb := rfl
@[simp] theorem State.setKeys_dirty (s : State) (k : Vector Bool 16) : (s.setKeys k).dirty = s.dirty := rfl
@[simp] theorem State.setKeys_mem (s : State) (k : Vector Bool 16) : (s.setKeys k).mem = s.mem := rfl
@[simp] theorem State.setKeys_status (s : State) (k : Vector Bool 16) : (s.setKeys k).status = s.status := rfl
@[simp] theorem State.setKeys_draws (s : State) (k : Vector Bool 16) : (s.setKeys k).draws = s.draws := rfl
@[simp] theorem State.setKeys_reg (s : State) (k : Vector Bool 16) (q : Reg) : (s.setKeys k).reg q = s.reg q := rfl
@[simp] theorem State.setKeys_readByte (s : State) (k : Vector Bool 16) (l : Nat) : (s.setKeys k).readByte l = s.readByte l := rfl

/-! ### setFb -/

@[simp] theorem State.setFb_v (s : State) (f : Frame) : (s.setFb f).v = s.v := rfl
@[simp] theorem State.setFb_i (s : State) (f : Frame) : (s.setFb f).i = s.i := rfl
@[simp] theorem State.setFb_pc (s : State) (f : Frame) : (s.setFb f).pc = s.pc := rfl
@[simp] theorem State.setFb_stack (s : State) (f : Frame) : (s.setFb f).stack = s.stack := rfl
@[simp] theorem State.setFb_sp (s : State) (f : Frame) : (s.setFb f).sp = s.sp := rfl
@[simp] theorem State.setFb_delay (s : State) (f : Frame) : (s.setFb f).delay = s.delay := rfl
@[simp] theorem State.setFb_sound (s : State) (f : Frame) : (s.setFb f).sound = s.sound := rfl
@[simp] theorem State.setFb_key (s : State) (f : Frame) : (s.setFb f).key = s.key := rfl
@[simp] theorem State.setFb_fb (s : State) (f : Frame) : (s.setFb f).fb = f := rfl
@[simp] theorem State.setFb_dirty (s : State) (f : Frame) : (s.setFb f).dirty = s.dirty := rfl
@[simp] theorem State.setFb_mem (s : State) (f : Frame) : (s.setFb f).mem = s.mem := rfl
@[simp] theorem State.setFb_status (s : State) (f : Frame) : (s.setFb f).status = s.status := rfl
@[simp] theorem State.setFb_draws (s : State) (f : Frame) : (s.setFb f).draws = s.draws := rfl
@[simp] theorem State.setFb_reg (s : State) (f : Frame) (q : Reg) : (s.setFb f).reg q = s.reg q := rfl
@[simp] theorem State.setFb_readByte (s : State) (f : Frame) (l : Nat) : (s.setFb f).readByte l = s.readByte l := rfl

/-! ### setDirty -/

@[simp] theorem State.setDirty_v (s : State) (b : Bool) : (s.setDirty b).v = s.v := rfl
@[simp] theorem State.setDirty_i (s : State) (b : Bool) : (s.setDirty b).i = s.i := rfl
@[simp] theorem State.setDirty_pc (s : State) (b : Bool) : (s.setDirty b).pc = s.pc := rfl
@[simp] theorem State.setDirty_stack (s : State) (b : Bool) : (s.setDirty b).stack = s.stack := rfl
@[simp] theorem State.setDirty_sp (s : State) (b : Bool) : (s.setDirty b).sp = s.sp := rfl
@[simp] theorem State.setDirty_delay (s : State) (b : Bool) : (s.setDirty b).delay = s.delay := rfl
@[simp] theorem State.setDirty_sound (s : State) (b : Bool) : (s.setDirty b).sound = s.sound := rfl
@[simp] theorem State.setDirty_key (s : State) (b : Bool) : (s.setDirty b).key = s.key := rfl
@[simp] theorem State.setDirty_fb (s : State) (b : Bool) : (s.setDirty b).fb = s.fb := rfl
@[simp] theorem State.setDirty_dirty (s : State) (b : Bool) : (s.setDirty b).dirty = b := rfl
@[simp] theorem State.setDirty_mem (s : State) (b : Bool) : (s.setDirty b).mem = s.mem := rfl
@[simp] theorem State.setDirty_status (s : State) (b : Bool) : (s.setDirty b).status = s.status := rfl
@[simp] theorem State.setDirty_draws (s : State) (b : Bool) : (s.setDirty b).draws = s.draws := rfl
@[simp] theorem State.setDirty_reg (s : State) (b : Bool) (q : Reg) : (s.setDirty b).reg q = s.reg q := rfl
@[simp] theorem State.setDirty_readByte (s : State) (b : Bool) (l : Nat) : (s.setDirty b).readByte l = s.readByte l := rfl

/-! ### setMem -/

@[simp] theorem State.setMem_v (s : State) (m : Memory) : (s.setMem m).v = s.v := rfl
@[simp] theorem State.setMem_i (s : State) (m : Memory) : (s.setMem m).i = s.i := rfl
@[simp] theorem State.setMem_pc (s : State) (m : Memory) : (s.setMem m).pc = s.pc := rfl
@[simp] theorem State.setMem_stack (s : State) (m : Memory) : (s.setMem m).stack = s.stack := rfl
@[simp] theorem State.setMem_sp (s : State) (m : Memory) : (s.setMem m).sp = s.sp := rfl
@[simp] theorem State.setMem_delay (s : State) (m : Memory) : (s.setMem m).delay = s.delay := rfl
@[simp] theorem State.setMem_sound (s : State) (m : Memory) : (s.setMem m).sound = s.sound := rfl
@[simp] theorem State.setMem_key (s : State) (m : Memory) : (s.setMem m).key = s.key := rfl
@[simp] theorem State.setMem_fb (s : State) (m : Memory) : (s.setMem m).fb = s.fb := rfl
@[simp] theorem State.setMem_dirty (s : State) (m : Memory) : (s.setMem m).dirty = s.dirty := rfl
@[simp] theorem State.setMem_mem (s : State) (m : Memory) : (s.setMem m).mem = m := rfl
@[simp] theorem State.setMem_status (s : State) (m : Memory) : (s.setMem m).status = s.status := rfl
@[simp] theorem State.setMem_draws (s : State) (m : Memory) : (s.setMem m).draws = s.draws := rfl
@[simp] theorem State.setMem_reg (s : State) (m : Memory) (q : Reg) : (s.setMem m).reg q = s.reg q := rfl

/-! ### setStatus -/

@[simp] theorem State.setStatus_v (s : State) (c : Status) : (s.setStatus c).v = s.v := rfl
@[simp] theorem State.setStatus_i (s : State) (c : Status) : (s.setStatus c).i = s.i := rfl
@[simp] theorem State.setStatus_pc (s : State) (c : Status) : (s.setStatus c).pc = s.pc := rfl
@[simp] theorem State.setStatus_stack (s : State) (c : Status) : (s.setStatus c).stack = s.stack := rfl
@[simp] theorem State.setStatus_sp (s : State) (c : Status) : (s.setStatus c).sp = s.sp := rfl
@[simp] theorem State.setStatus_delay (s : State) (c : Status) : (s.setStatus c).delay = s.delay := rfl
@[simp] theorem State.setStatus_sound (s : State) (c : Status) : (s.setStatus c).sound = s.sound := rfl
@[simp] theorem State.setStatus_key (s : State) (c : Status) : (s.setStatus c).key = s.key := rfl
@[simp] theorem State.setStatus_fb (s : State) (c : Status) : (s.setStatus c).fb = s.fb := rfl
@[simp] theorem State.setStatus_dirty (s : State) (c : Status) : (s.setStatus c).dirty = s.dirty := rfl
@[simp] theorem State.setStatus_mem (s : State) (c : Status) : (s.setStatus c).mem = s.mem := rfl
@[simp] theorem State.setStatus_status (s : State) (c : Status) : (s.setStatus c).status = c := rfl
@[simp] theorem State.setStatus_draws (s : State) (c : Status) : (s.setStatus c).draws = s.draws := rfl
@[simp] theorem State.setStatus_reg (s : State) (c : Status) (q : Reg) : (s.setStatus c).reg q = s.reg q := rfl
@[simp] theorem State.setStatus_readByte (s : State) (c : Status) (l : Nat) : (s.setStatus c).readByte l = s.readByte l := rfl

/-! ### setDraws -/

@[simp] theorem State.setDraws_v (s : State) (n : Nat) : (s.setDraws n).v = s.v := rfl
@[simp] theorem State.setDraws_i (s : State) (n : Nat) : (s.setDraws n).i = s.i := rfl
@[simp] theorem State.setDraws_pc (s : State) (n : Nat) : (s.setDraws n).pc = s.pc := rfl
@[simp] theorem State.setDraws_stack (s : State) (n : Nat) : (s.setDraws n).stack = s.stack := rfl
@[simp] theorem State.setDraws_sp (s : State) (n : Nat) : (s.setDraws n).sp = s.sp := rfl
@[simp] theorem State.setDraws_delay (s : State) (n : Nat) : (s.setDraws n).delay = s.delay := rfl
@[simp] theorem State.setDraws_sound (s : State) (n : Nat) : (s.setDraws n).sound = s.sound := rfl
@[simp] theorem State.setDraws_key (s : State) (n : Nat) : (s.setDraws n).key = s.key := rfl
@[simp] theorem State.setDraws_fb (s : State) (n : Nat) : (s.setDraws n).fb = s.fb := rfl
@[simp] theorem State.setDraws_dirty (s : State) (n : Nat) : (s.setDraws n).dirty = s.dirty := rfl
@[simp] theorem State.setDraws_mem (s : State) (n : Nat) : (s.setDraws n).mem = s.mem := rfl
@[simp] theorem State.setDraws_status (s : State) (n : Nat) : (s.setDraws n).status = s.status := rfl
@[simp] theorem State.setDraws_draws (s : State) (n : Nat) : (s.setDraws n).draws = n := rfl
@[simp] theorem State.setDraws_reg (s : State) (n : Nat) (q : Reg) : (s.setDraws n).reg q = s.reg q := rfl
@[simp] theorem State.setDraws_readByte (s : State) (n : Nat) (l : Nat) : (s.setDraws n).readByte l = s.readByte l := rfl

/-! ### advance -/

@[simp] theorem State.advance_v (s : State) : (s.advance).v = s.v := rfl
@[simp] theorem State.advance_i (s : State) : (s.advance).i = s.i := rfl
@[simp] theorem State.advance_pc (s : State) : (s.advance).pc = s.pc + 2 := rfl
@[simp] theorem State.advance_stack (s : State) : (s.advance).stack = s.stack := rfl
@[simp] theorem State.advance_sp (s : State) : (s.advance).sp = s.sp := rfl
@[simp] theorem State.advance_delay (s : State) : (s.advance).delay = s.delay := rfl
@[simp] theorem State.advance_sound (s : State) : (s.advance).sound = s.sound := rfl
@[simp] theorem State.advance_key (s : State) : (s.advance).key = s.key := rfl
@[simp] theorem State.advance_fb (s : State) : (s.advance).fb = s.fb := rfl
@[simp] theorem State.advance_dirty (s : State) : (s.advance).dirty = s.dirty := rfl
@[simp] theorem State.advance_mem (s : State) : (s.advance).mem = s.mem := rfl
@[simp] theorem State.advance_status (s : State) : (s.advance).status = s.status := rfl
@[simp] theorem State.advance_draws (s : State) : (s.advance).draws = s.draws := rfl
@[simp] theorem State.advance_reg (s : State) (q : Reg) : (s.advance).reg q = s.reg q := rfl
@[simp] theorem State.advance_readByte (s : State) (m : Nat) : (s.advance).readByte m = s.readByte m := rfl

/-! ### rewind -/

@[simp] theorem State.rewind_v (s : State) : (s.rewind).v = s.v := rfl
@[simp] theorem State.rewind_i (s : State) : (s.rewind).i = s.i := rfl
@[simp] theorem State.rewind_pc (s : State) : (s.rewind).pc = s.pc - 2 := rfl
@[simp] theorem State.rewind_stack (s : State) : (s.rewind).stack = s.stack := rfl
@[simp] theorem State.rewind_sp (s : State) : (s.rewind).sp = s.sp := rfl
@[simp] theorem State.rewind_delay (s : State) : (s.rewind).delay = s.delay := rfl
@[simp] theorem State.rewind_sound (s : State) : (s.rewind).sound = s.sound := rfl
@[simp] theorem State.rewind_key (s : State) : (s.rewind).key = s.key := rfl
@[simp] theorem State.rewind_fb (s : State) : (s.rewind).fb = s.fb := rfl
@[simp] theorem State.rewind_dirty (s : State) : (s.rewind).dirty = s.dirty := rfl
@[simp] theorem State.rewind_mem (s : State) : (s.rewind).mem = s.mem := rfl
@[simp] theorem State.rewind_status (s : State) : (s.rewind).status = s.status := rfl
@[simp] theorem State.rewind_draws (s : State) : (s.rewind).draws = s.draws := rfl
@[simp] theorem State.rewind_reg (s : State) (q : Reg) : (s.rewind).reg q = s.reg q := rfl
@[simp] theorem State.rewind_readByte (s : State) (m : Nat) : (s.rewind).readByte m = s.readByte m := rfl

/-! ### skipIf -/

@[simp] theorem State.skipIf_v (s : State) (c : Bool) : (s.skipIf c).v = s.v := rfl
@[simp] theorem State.skipIf_i (s : State) (c : Bool) : (s.skipIf c).i = s.i := rfl
@[simp] theorem State.skipIf_pc (s : State) (c : Bool) : (s.skipIf c).pc = if c then s.pc + 2 else s.pc := rfl
@[simp] theorem State.skipIf_stack (s : State) (c : Bool) : (s.skipIf c).stack = s.stack := rfl
@[simp] theorem State.skipIf_sp (s : State) (c : Bool) : (s.skipIf c).sp = s.sp := rfl
@[simp] theorem State.skipIf_delay (s : State) (c : Bool) : (s.skipIf c).delay = s.delay := rfl
@[simp] theorem State.skipIf_sound (s : State) (c : Bool) : (s.skipIf c).sound = s.sound := rfl
@[simp] theorem State.skipIf_key (s : State) (c : Bool) : (s.skipIf c).key = s.key := rfl
@[simp] theorem State.skipIf_fb (s : State) (c : Bool) : (s.skipIf c).fb = s.fb := rfl
@[simp] theorem State.skipIf_dirty (s : State) (c : Bool) : (s.skipIf c).dirty = s.dirty := rfl
@[simp] theorem State.skipIf_mem (s : State) (c : Bool) : (s.skipIf c).mem = s.mem := rfl
@[simp] theorem State.skipIf_status (s : State) (c : Bool) : (s.skipIf c).status = s.status := rfl
@[simp] theorem State.skipIf_draws (s : State) (c : Bool) : (s.skipIf c).draws = s.draws := rfl
@[simp] theorem State.skipIf_reg (s : State) (c : Bool) (q : Reg) : (s.skipIf c).reg q = s.reg q := rfl
@[simp] theorem State.skipIf_readByte (s : State) (c : Bool) (m : Nat) : (s.skipIf c).readByte m = s.readByte m := rfl

/-! ### raise -/

@[simp] theorem State.raise_v (s : State) (c : Condition) : (s.raise c).v = s.v := rfl
@[simp] theorem State.raise_i (s : State) (c : Condition) : (s.raise c).i = s.i := rfl
@[simp] theorem State.raise_pc (s : State) (c : Condition) : (s.raise c).pc = s.pc := rfl
@[simp] theorem State.raise_stack (s : State) (c : Condition) : (s.raise c).stack = s.stack := rfl
@[simp] theorem State.raise_sp (s : State) (c : Condition) : (s.raise c).sp = s.sp := rfl
@[simp] theorem State.raise_delay (s : State) (c : Condition) : (s.raise c).delay = s.delay := rfl
@[simp] theorem State.raise_sound (s : State) (c : Condition) : (s.raise c).sound = s.sound := rfl
@[simp] theorem State.raise_key (s : State) (c : Condition) : (s.raise c).key = s.key := rfl
@[simp] theorem State.raise_fb (s : State) (c : Condition) : (s.raise c).fb = s.fb := rfl
@[simp] theorem State.raise_dirty (s : State) (c : Condition) : (s.raise c).dirty = s.dirty := rfl
@[simp] theorem State.raise_mem (s : State) (c : Condition) : (s.raise c).mem = s.mem := rfl
@[simp] theorem State.raise_status (s : State) (c : Condition) : (s.raise c).status = .halted c := rfl
@[simp] theorem State.raise_draws (s : State) (c : Condition) : (s.raise c).draws = s.draws := rfl
@[simp] theorem State.raise_reg (s : State) (c : Condition) (q : Reg) : (s.raise c).reg q = s.reg q := rfl
@[simp] theorem State.raise_readByte (s : State) (c : Condition) (m : Nat) : (s.raise c).readByte m = s.readByte m := rfl

/-! ### setReg -/

@[simp] theorem State.setReg_v (s : State) (r : Reg) (b : Byte) : (s.setReg r b).v = s.v.set r.val b := rfl
@[simp] theorem State.setReg_i (s : State) (r : Reg) (b : Byte) : (s.setReg r b).i = s.i := rfl
@[simp] theorem State.setReg_pc (s : State) (r : Reg) (b : Byte) : (s.setReg r b).pc = s.pc := rfl
@[simp] theorem State.setReg_stack (s : State) (r : Reg) (b : Byte) : (s.setReg r b).stack = s.stack := rfl
@[simp] theorem State.setReg_sp (s : State) (r : Reg) (b : Byte) : (s.setReg r b).sp = s.sp := rfl
@[simp] theorem State.setReg_delay (s : State) (r : Reg) (b : Byte) : (s.setReg r b).delay = s.delay := rfl
@[simp] theorem State.setReg_sound (s : State) (r : Reg) (b : Byte) : (s.setReg r b).sound = s.sound := rfl
@[simp] theorem State.setReg_key (s : State) (r : Reg) (b : Byte) : (s.setReg r b).key = s.key := rfl
@[simp] theorem State.setReg_fb (s : State) (r : Reg) (b : Byte) : (s.setReg r b).fb = s.fb := rfl
@[simp] theorem State.setReg_dirty (s : State) (r : Reg) (b : Byte) : (s.setReg r b).dirty = s.dirty := rfl
@[simp] theorem State.setReg_mem (s : State) (r : Reg) (b : Byte) : (s.setReg r b).mem = s.mem := rfl
@[simp] theorem State.setReg_status (s : State) (r : Reg) (b : Byte) : (s.setReg r b).status = s.status := rfl
@[simp] theorem State.setReg_draws (s : State) (r : Reg) (b : Byte) : (s.setReg r b).draws = s.draws := rfl
@[simp] theorem State.setReg_readByte (s : State) (r : Reg) (b : Byte) (m : Nat) : (s.setReg r b).readByte m = s.readByte m := rfl

/-! ### setRegFlag -/

@[simp] theorem State.setRegFlag_v (s : State) (x : Reg) (b : Byte) (g : Bool) : (s.setRegFlag x b g).v = (s.v.set x.val b).set regVF.val (boolByte g) := rfl
@[simp] theorem State.setRegFlag_i (s : State) (x : Reg) (b : Byte) (g : Bool) : (s.setRegFlag x b g).i = s.i := rfl
@[simp] theorem State.setRegFlag_pc (s : State) (x : Reg) (b : Byte) (g : Bool) : (s.setRegFlag x b g).pc = s.pc := rfl
@[simp] theorem State.setRegFlag_stack (s : State) (x : Reg) (b : Byte) (g : Bool) : (s.setRegFlag x b g).stack = s.stack := rfl
@[simp] theorem State.setRegFlag_sp (s : State) (x : Reg) (b : Byte) (g : Bool) : (s.setRegFlag x b g).sp = s.sp := rfl
@[simp] theorem State.setRegFlag_delay (s : State) (x : Reg) (b : Byte) (g : Bool) : (s.setRegFlag x b g).delay = s.delay := rfl
@[simp] theorem State.setRegFlag_sound (s : State) (x : Reg) (b : Byte) (g : Bool) : (s.setRegFlag x b g).sound = s.sound := rfl
@[simp] theorem State.setRegFlag_key (s : State) (x : Reg) (b : Byte) (g : Bool) : (s.setRegFlag x b g).key = s.key := rfl
@[simp] theorem State.setRegFlag_fb (s : State) (x : Reg) (b : Byte) (g : Bool) : (s.setRegFlag x b g).fb = s.fb := rfl
@[simp] theorem State.setRegFlag_dirty (s : State) (x : Reg) (b : Byte) (g : Bool) : (s.setRegFlag x b g).dirty = s.dirty := rfl
@[simp] theorem State.setRegFlag_mem (s : State) (x : Reg) (b : Byte) (g : Bool) : (s.setRegFlag x b g).mem = s.mem := rfl
@[simp] theorem State.setRegFlag_status (s : State) (x : Reg) (b : Byte) (g : Bool) : (s.setRegFlag x b g).status = s.status := rfl
@[simp] theorem State.setRegFlag_draws (s : State) (x : Reg) (b : Byte) (g : Bool) : (s.setRegFlag x b g).draws = s.draws := rfl
@[simp] theorem State.setRegFlag_readByte (s : State) (x : Reg) (b : Byte) (g : Bool) (m : Nat) : (s.setRegFlag x b g).readByte m = s.readByte m := rfl

/-! ### storeBytes -/

@[simp] theorem State.storeBytes_v (s : State) (l : Nat) (us : List Byte) : (s.storeBytes l us).v = s.v := rfl
@[simp] theorem State.storeBytes_i (s : State) (l : Nat) (us : List Byte) : (s.storeBytes l us).i = s.i := rfl
@[simp] theorem State.storeBytes_pc (s : State) (l : Nat) (us : List Byte) : (s.storeBytes l us).pc = s.pc := rfl
@[simp] theorem State.storeBytes_stack (s : State) (l : Nat) (us : List Byte) : (s.storeBytes l us).stack = s.stack := rfl
@[simp] theorem State.storeBytes_sp (s : State) (l : Nat) (us : List Byte) : (s.storeBytes l us).sp = s.sp := rfl
@[simp] theorem State.storeBytes_delay (s : State) (l : Nat) (us : List Byte) : (s.storeBytes l us).delay = s.delay := rfl
@[simp] theorem State.storeBytes_sound (s : State) (l : Nat) (us : List Byte) : (s.storeBytes l us).sound = s.sound := rfl
@[simp] theorem State.storeBytes_key (s : State) (l : Nat) (us : List Byte) : (s.storeBytes l us).key = s.key := rfl
@[simp] theorem State.storeBytes_fb (s : State) (l : Nat) (us : List Byte) : (s.storeBytes l us).fb = s.fb := rfl
@[simp] theorem State.storeBytes_dirty (s : State) (l : Nat) (us : List Byte) : (s.storeBytes l us).dirty = s.dirty := rfl
@[simp] theorem State.storeBytes_mem (s : State) (l : Nat) (us : List Byte) : (s.storeBytes l us).mem = Memory.writeBytes s.mem l us := rfl
@[simp] theorem State.storeBytes_status (s : State) (l : Nat) (us : List Byte) : (s.storeBytes l us).status = s.status := rfl
@[simp] theorem State.storeBytes_draws (s : State) (l : Nat) (us : List Byte) : (s.storeBytes l us).draws = s.draws := rfl
@[simp] theorem State.storeBytes_reg (s : State) (l : Nat) (us : List Byte) (q : Reg) : (s.storeBytes l us).reg q = s.reg q := rfl

/-! ### Registers -/

/-- A register reads what was written to it; the others are unchanged. -/
theorem State.setReg_reg (s : State) (r q : Reg) (b : Byte) : (s.setReg r b).reg q = if q = r then b else s.reg q := by
  have h : (r.val = q.val) ↔ q = r := by rw [Fin.ext_iff]; exact eq_comm
  simp [State.reg, State.setReg, Vector.getElem_set, h]

@[simp] theorem State.setReg_reg_same (s : State) (r : Reg) (b : Byte) : (s.setReg r b).reg r = b := by
  simp [State.setReg_reg]

theorem State.setReg_reg_other (s : State) {r q : Reg} (b : Byte) (h : q ≠ r) : (s.setReg r b).reg q = s.reg q := by
  simp [State.setReg_reg, h]

/-- After a flag-writing instruction VF is the flag, whatever x is (42_alu.md R151). -/
theorem State.setRegFlag_reg (s : State) (x q : Reg) (b : Byte) (g : Bool) :
    (s.setRegFlag x b g).reg q = if q = regVF then boolByte g else if q = x then b else s.reg q := by
  simp [State.setRegFlag, State.setReg_reg]

@[simp] theorem State.setRegFlag_reg_vf (s : State) (x : Reg) (b : Byte) (g : Bool) :
    (s.setRegFlag x b g).reg regVF = boolByte g := by
  simp [State.setRegFlag_reg]

/-- The rewind undoes the advance (44_keypad.md R204). -/
@[simp] theorem State.advance_rewind (s : State) : s.advance.rewind = s := by
  simp [State.advance, State.rewind, State.setPc]

/-- Two states with the same fields are the same; registers and memory field by field. -/
theorem State.ext_fields {s t : State} (hv : ∀ r : Reg, s.reg r = t.reg r) (hi : s.i = t.i) (hpc : s.pc = t.pc)
    (hst : s.stack = t.stack) (hsp : s.sp = t.sp) (hd : s.delay = t.delay) (hs : s.sound = t.sound) (hk : s.key = t.key)
    (hf : s.fb = t.fb) (hdi : s.dirty = t.dirty) (hm : s.mem = t.mem) (hstat : s.status = t.status)
    (hdr : s.draws = t.draws) : s = t := by
  have hv' : s.v = t.v := by
    apply Vector.ext
    intro k hk'
    exact hv ⟨k, hk'⟩
  cases s
  cases t
  simp_all

/-! ### tick -/

@[simp] theorem State.tick_v (s : State) : s.tick.v = s.v := rfl
@[simp] theorem State.tick_i (s : State) : s.tick.i = s.i := rfl
@[simp] theorem State.tick_pc (s : State) : s.tick.pc = s.pc := rfl
@[simp] theorem State.tick_stack (s : State) : s.tick.stack = s.stack := rfl
@[simp] theorem State.tick_sp (s : State) : s.tick.sp = s.sp := rfl
@[simp] theorem State.tick_key (s : State) : s.tick.key = s.key := rfl
@[simp] theorem State.tick_fb (s : State) : s.tick.fb = s.fb := rfl
@[simp] theorem State.tick_dirty (s : State) : s.tick.dirty = s.dirty := rfl
@[simp] theorem State.tick_mem (s : State) : s.tick.mem = s.mem := rfl
@[simp] theorem State.tick_status (s : State) : s.tick.status = s.status := rfl
@[simp] theorem State.tick_draws (s : State) : s.tick.draws = s.draws := rfl
@[simp] theorem State.tick_delay (s : State) : s.tick.delay = countDown s.delay := rfl
@[simp] theorem State.tick_sound (s : State) : s.tick.sound = countDown s.sound := rfl
@[simp] theorem State.tick_reg (s : State) (q : Reg) : s.tick.reg q = s.reg q := rfl
@[simp] theorem State.tick_readByte (s : State) (l : Nat) : s.tick.readByte l = s.readByte l := rfl

/-! ### policyTick -/

@[simp] theorem State.policyTick_v (s : State) (p : TimerPolicy) : (s.policyTick p).v = s.v := rfl
@[simp] theorem State.policyTick_i (s : State) (p : TimerPolicy) : (s.policyTick p).i = s.i := rfl
@[simp] theorem State.policyTick_pc (s : State) (p : TimerPolicy) : (s.policyTick p).pc = s.pc := rfl
@[simp] theorem State.policyTick_stack (s : State) (p : TimerPolicy) : (s.policyTick p).stack = s.stack := rfl
@[simp] theorem State.policyTick_sp (s : State) (p : TimerPolicy) : (s.policyTick p).sp = s.sp := rfl
@[simp] theorem State.policyTick_key (s : State) (p : TimerPolicy) : (s.policyTick p).key = s.key := rfl
@[simp] theorem State.policyTick_fb (s : State) (p : TimerPolicy) : (s.policyTick p).fb = s.fb := rfl
@[simp] theorem State.policyTick_dirty (s : State) (p : TimerPolicy) : (s.policyTick p).dirty = s.dirty := rfl
@[simp] theorem State.policyTick_mem (s : State) (p : TimerPolicy) : (s.policyTick p).mem = s.mem := rfl
@[simp] theorem State.policyTick_status (s : State) (p : TimerPolicy) : (s.policyTick p).status = s.status := rfl
@[simp] theorem State.policyTick_draws (s : State) (p : TimerPolicy) : (s.policyTick p).draws = s.draws := rfl
@[simp] theorem State.policyTick_delay (s : State) (p : TimerPolicy) :
    (s.policyTick p).delay = policyCountDown p s.delay := rfl
@[simp] theorem State.policyTick_sound (s : State) (p : TimerPolicy) :
    (s.policyTick p).sound = policyCountDown p s.sound := rfl
@[simp] theorem State.policyTick_reg (s : State) (p : TimerPolicy) (q : Reg) : (s.policyTick p).reg q = s.reg q := rfl
@[simp] theorem State.policyTick_readByte (s : State) (p : TimerPolicy) (l : Nat) :
    (s.policyTick p).readByte l = s.readByte l := rfl

/-! ### endStep: everything but the timers -/

@[simp] theorem State.endStep_v (s : State) : s.endStep.v = s.v := by unfold State.endStep; split <;> rfl
@[simp] theorem State.endStep_i (s : State) : s.endStep.i = s.i := by unfold State.endStep; split <;> rfl
@[simp] theorem State.endStep_pc (s : State) : s.endStep.pc = s.pc := by unfold State.endStep; split <;> rfl
@[simp] theorem State.endStep_stack (s : State) : s.endStep.stack = s.stack := by unfold State.endStep; split <;> rfl
@[simp] theorem State.endStep_sp (s : State) : s.endStep.sp = s.sp := by unfold State.endStep; split <;> rfl
@[simp] theorem State.endStep_key (s : State) : s.endStep.key = s.key := by unfold State.endStep; split <;> rfl
@[simp] theorem State.endStep_fb (s : State) : s.endStep.fb = s.fb := by unfold State.endStep; split <;> rfl
@[simp] theorem State.endStep_dirty (s : State) : s.endStep.dirty = s.dirty := by unfold State.endStep; split <;> rfl
@[simp] theorem State.endStep_mem (s : State) : s.endStep.mem = s.mem := by unfold State.endStep; split <;> rfl
@[simp] theorem State.endStep_status (s : State) : s.endStep.status = s.status := by unfold State.endStep; split <;> rfl
@[simp] theorem State.endStep_draws (s : State) : s.endStep.draws = s.draws := by unfold State.endStep; split <;> rfl
@[simp] theorem State.endStep_reg (s : State) (q : Reg) : s.endStep.reg q = s.reg q := by
  unfold State.endStep; split <;> rfl
@[simp] theorem State.endStep_readByte (s : State) (l : Nat) : s.endStep.readByte l = s.readByte l := by
  unfold State.endStep; split <;> rfl

end Sys2Proof.Machine
end

