-- ==== Sys2Proof/Laws/Memory.lean ====
section
/-! SUPPORT. Memory: every operation keeps the canonical form, and what a read after a write gives. -/

namespace Sys2Proof.Machine

/-! ### The canonical form -/

theorem Memory.wfFrom_cons (low b : Nat) (u : Byte) (m : Memory) :
    Memory.wfFrom low ((b, u) :: m) = true ↔
      low ≤ b ∧ b < memSize ∧ u ≠ initialByte b ∧ Memory.wfFrom (b + 1) m = true := by
  simp [Memory.wfFrom, and_assoc]

/-- A list in form from an address on is in form from every lower one. -/
theorem Memory.wfFrom_mono {low low' : Nat} {m : Memory} (h : Memory.wfFrom low m = true) (hl : low' ≤ low) :
    Memory.wfFrom low' m = true := by
  cases m with
  | nil => rfl
  | cons e m =>
    obtain ⟨b, u⟩ := e
    rw [Memory.wfFrom_cons] at h ⊢
    exact ⟨hl.trans h.1, h.2⟩

/-- An address below the form's start is unlisted. -/
theorem Memory.read_below {low a : Nat} {m : Memory} (h : Memory.wfFrom low m = true) (ha : a < low) :
    Memory.read m a = initialByte a := by
  induction m generalizing low with
  | nil => rfl
  | cons e m ih =>
    obtain ⟨b, u⟩ := e
    rw [Memory.wfFrom_cons] at h
    have hab : a ≠ b := by omega
    simp only [Memory.read, if_neg hab]
    exact ih h.2.2.2 (by omega)

/-- Writing keeps the canonical form. -/
theorem Memory.write_wfFrom {low a : Nat} {m : Memory} (u : Byte) (h : Memory.wfFrom low m = true) (hl : low ≤ a)
    (ha : a < memSize) : Memory.wfFrom low (Memory.write m a u) = true := by
  induction m generalizing low with
  | nil =>
    simp only [Memory.write]
    split
    · rfl
    · next hu => exact (Memory.wfFrom_cons ..).2 ⟨hl, ha, hu, rfl⟩
  | cons e m ih =>
    obtain ⟨b, t⟩ := e
    have hc := (Memory.wfFrom_cons ..).1 h
    simp only [Memory.write]
    split
    · next hab =>
      split
      · exact h
      · next hu => exact (Memory.wfFrom_cons ..).2 ⟨hl, ha, hu, (Memory.wfFrom_cons ..).2 ⟨hab, hc.2⟩⟩
    · next hab =>
      split
      · next heq =>
        subst heq
        split
        · exact Memory.wfFrom_mono hc.2.2.2 (by omega)
        · next hu => exact (Memory.wfFrom_cons ..).2 ⟨hl, ha, hu, hc.2.2.2⟩
      · exact (Memory.wfFrom_cons ..).2 ⟨hc.1, hc.2.1, hc.2.2.1, ih hc.2.2.2 (by omega)⟩

theorem Memory.write_wf {a : Nat} {m : Memory} (u : Byte) (h : Memory.wf m = true) (ha : a < memSize) :
    Memory.wf (Memory.write m a u) = true :=
  Memory.write_wfFrom u h (Nat.zero_le _) ha

/-- Writing a block inside the address space keeps the canonical form. -/
theorem Memory.writeBytes_wf {a : Nat} {m : Memory} {us : List Byte} (h : Memory.wf m = true)
    (ha : a + us.length ≤ memSize) : Memory.wf (Memory.writeBytes m a us) = true := by
  induction us generalizing m a with
  | nil => exact h
  | cons u us ih =>
    rw [List.length_cons] at ha
    exact ih (Memory.write_wf u h (by omega)) (by omega)

/-- Reset memory is in form. -/
theorem Memory.wf_nil : Memory.wf [] = true := rfl

/-! ### Reads after writes -/

theorem Memory.read_write_from {low a : Nat} {m : Memory} (u : Byte) (h : Memory.wfFrom low m = true) (b : Nat) :
    Memory.read (Memory.write m a u) b = if b = a then u else Memory.read m b := by
  induction m generalizing low with
  | nil =>
    by_cases hu : u = initialByte a
    · by_cases hb : b = a <;> simp [Memory.write, Memory.read, hu, hb]
    · by_cases hb : b = a <;> simp [Memory.write, Memory.read, hu, hb]
  | cons e m ih =>
    obtain ⟨c, t⟩ := e
    have hc := (Memory.wfFrom_cons ..).1 h
    have below : ∀ {d}, d < c + 1 → Memory.read m d = initialByte d := fun hd => Memory.read_below hc.2.2.2 hd
    by_cases hac : a < c
    · have hne : a ≠ c := by omega
      by_cases hu : u = initialByte a
      · by_cases hb : b = a
        · subst hb
          simp [Memory.write, Memory.read, hac, hu, hne, below (show b < c + 1 by omega)]
        · simp [Memory.write, Memory.read, hac, hu, hb]
      · by_cases hb : b = a <;> simp [Memory.write, Memory.read, hac, hu, hb]
    · by_cases hac' : a = c
      · subst hac'
        by_cases hu : u = initialByte a
        · by_cases hb : b = a
          · subst hb
            simp [Memory.write, hu, below (show b < b + 1 by omega)]
          · simp [Memory.write, Memory.read, hu, hb]
        · by_cases hb : b = a <;> simp [Memory.write, Memory.read, hu, hb]
      · have ih' := ih hc.2.2.2
        by_cases hbc : b = c
        · have hba : b ≠ a := by omega
          simp [Memory.write, Memory.read, hac, hac', hbc]
          omega
        · simp [Memory.write, Memory.read, hac, hac', hbc, ih']

/-- A read after a write gives the byte written there, and every other byte is as before (20_memory.md R56). -/
theorem Memory.read_write {a : Nat} {m : Memory} (u : Byte) (h : Memory.wf m = true) (b : Nat) :
    Memory.read (Memory.write m a u) b = if b = a then u else Memory.read m b :=
  Memory.read_write_from u h b

/-- A block write reads back byte by byte, and leaves every byte outside the block alone. -/
theorem Memory.read_writeBytes {a : Nat} {m : Memory} {us : List Byte} (h : Memory.wf m = true)
    (ha : a + us.length ≤ memSize) (b : Nat) :
    Memory.read (Memory.writeBytes m a us) b =
      if hb : a ≤ b ∧ b < a + us.length then us[b - a]'(by omega) else Memory.read m b := by
  induction us generalizing m a with
  | nil =>
    have hb : ¬ (a ≤ b ∧ b < a + ([] : List Byte).length) := by simp
    rw [dif_neg hb, Memory.writeBytes]
  | cons u us ih =>
    rw [List.length_cons] at ha
    rw [Memory.writeBytes, ih (Memory.write_wf u h (by omega)) (by omega), Memory.read_write u h]
    by_cases hba : b = a
    · subst hba
      simp
    · by_cases hin : a + 1 ≤ b ∧ b < a + 1 + us.length
      · have hin' : a ≤ b ∧ b < a + (us.length + 1) := by omega
        have hsub : b - a = (b - (a + 1)) + 1 := by omega
        simp [hin, hin', hsub]
      · have hin' : ¬ (a ≤ b ∧ b < a + (u :: us).length) := by rw [List.length_cons]; omega
        rw [dif_neg hin, dif_neg hin', if_neg hba]

/-- A block write through a list that is not in form still leaves every byte outside the block alone. -/
theorem Memory.read_write_other {a b : Nat} (m : Memory) (u : Byte) (hb : b ≠ a) :
    Memory.read (Memory.write m a u) b = Memory.read m b := by
  induction m with
  | nil =>
    simp only [Memory.write]
    split <;> simp [Memory.read, hb]
  | cons e m ih =>
    obtain ⟨c, t⟩ := e
    simp only [Memory.write]
    split
    · split <;> simp [Memory.read, hb]
    · split
      · next hac =>
        subst hac
        split <;> simp [Memory.read, hb]
      · simp [Memory.read, ih]

/-- A block write changes no byte outside its block, whatever the memory. -/
theorem Memory.read_writeBytes_other {a b : Nat} (m : Memory) (us : List Byte) (hb : b < a ∨ a + us.length ≤ b) :
    Memory.read (Memory.writeBytes m a us) b = Memory.read m b := by
  induction us generalizing m a with
  | nil => rfl
  | cons u us ih =>
    rw [List.length_cons] at hb
    rw [Memory.writeBytes, ih _ (by omega), Memory.read_write_other m u (by omega)]

/-- The bytes of a block, one by one. -/
theorem Memory.readBytes_length (m : Memory) (a n : Nat) : (Memory.readBytes m a n).length = n := by
  induction n generalizing a with
  | zero => rfl
  | succ n ih => simp [Memory.readBytes, ih]

theorem Memory.readBytes_get (m : Memory) (a n k : Nat) :
    (Memory.readBytes m a n)[k]? = if k < n then some (Memory.read m (a + k)) else none := by
  induction n generalizing a k with
  | zero => simp [Memory.readBytes]
  | succ n ih =>
    cases k with
    | zero => simp [Memory.readBytes]
    | succ k => simp [Memory.readBytes, ih, show a + 1 + k = a + (k + 1) by omega]

/-! ### The check of a block's addresses -/

/-- The check passes exactly when every address of the block exists. -/
theorem firstOutOfRange_none (a n : Nat) : firstOutOfRange a n = none ↔ ∀ k, k < n → a + k < memSize := by
  unfold firstOutOfRange memSize
  split
  · next h =>
    refine ⟨fun _ k hk => ?_, fun _ => rfl⟩
    omega
  · next h =>
    refine ⟨fun h' => by simp at h', fun h' => ?_⟩
    have := h' (n - 1) (by omega)
    omega

/-- Where it fails, it names the least address of the block that does not exist. -/
theorem firstOutOfRange_some (a n b : Nat) :
    firstOutOfRange a n = some b ↔
      (memSize ≤ b ∧ a ≤ b ∧ b < a + n) ∧ ∀ c, a ≤ c → c < a + n → memSize ≤ c → b ≤ c := by
  unfold firstOutOfRange memSize
  split
  · next h =>
    refine ⟨fun h' => by simp at h', fun h' => ?_⟩
    omega
  · next h =>
    rw [Option.some.injEq]
    refine ⟨fun h' => ?_, fun h' => ?_⟩
    · subst h'
      refine ⟨by omega, fun c _ _ _ => by omega⟩
    · have := h'.2 (max a 4096) (by omega) (by omega) (by omega)
      omega

end Sys2Proof.Machine
end

