-- ==== Sys2Proof/Laws/Display.lean ====
section
/-! SUPPORT. What a draw does, once: it flips exactly the pixels its set bits fall on, each once; the collision is that one
of them was set before; touched is that there is one (40_display.md R101 to R105, R108). -/

namespace Sys2Proof.Machine

/-! ### One pixel -/

@[simp] theorem Frame.get_flip (f : Frame) (x x' : Fin 64) (y y' : Fin 32) :
    (f.flip x y).get x' y' = if x' = x ∧ y' = y then !(f.get x' y') else f.get x' y' := by
  have hx : (x.val = x'.val) ↔ x' = x := by rw [Fin.ext_iff]; exact eq_comm
  have hy : (y.val = y'.val) ↔ y' = y := by rw [Fin.ext_iff]; exact eq_comm
  by_cases h1 : y' = y
  · subst h1
    by_cases h2 : x' = x
    · subst h2; simp [Frame.get, Frame.flip]
    · simp [Frame.get, Frame.flip, hx, h2]
  · simp [Frame.get, Frame.flip, hy, h1]

@[simp] theorem blankFrame_get (x : Fin 64) (y : Fin 32) : blankFrame.get x y = false := by
  simp [blankFrame, Frame.get]

/-- Two framebuffers with the same pixels are equal. -/
theorem Frame.ext_get {f g : Frame} (h : ∀ x y, f.get x y = g.get x y) : f = g := by
  apply Vector.ext
  intro y hy
  apply Vector.ext
  intro x hx
  exact h ⟨x, hx⟩ ⟨y, hy⟩

/-- The model's pixel is the spec's (40_display.md R102, R106). -/
theorem pixelAt_eq_some (edge : DrawEdge) (vx vy r c : Nat) (x : Fin 64) (y : Fin 32) :
    pixelAt edge vx vy r c = some (x, y) ↔ DrawnAt edge vx vy r c x y := by
  have hx := x.isLt
  have hy := y.isLt
  unfold pixelAt
  split
  · next h =>
    simp only [Option.some.injEq, Prod.mk.injEq, Fin.ext_iff]
    cases edge <;> simp only [DrawnAt] <;> omega
  · next h =>
    cases edge
    · simp only [Option.some.injEq, Prod.mk.injEq, Fin.ext_iff, DrawnAt, Fin.val_ofNat]
      omega
    · simp only [DrawnAt]
      refine ⟨fun h' => by simp at h', fun h' => ?_⟩
      omega

/-- Two sprite bits drawn at one pixel are one bit (40_display.md R108). -/
theorem DrawnAt.inj {edge : DrawEdge} {vx vy r c r' c' : Nat} {x : Fin 64} {y : Fin 32}
    (h : DrawnAt edge vx vy r c x y) (h' : DrawnAt edge vx vy r' c' x y) (hr : r < 32) (hr' : r' < 32) (hc : c < 8)
    (hc' : c' < 8) : r = r' ∧ c = c' := by
  cases edge <;> simp only [DrawnAt] at h h' <;> omega

/-! ### A draw as a list of pixels -/

/-- The pixel of one sprite bit, if the bit is set and drawn. -/
def bitPixels (edge : DrawEdge) (vx vy r : Nat) (b : Byte) (c : Nat) : List (Fin 64 × Fin 32) :=
  if b.getLsbD (7 - c) then (pixelAt edge vx vy r c).toList else []

/-- The pixels of a sprite's rows from row r on, in drawing order. -/
def rowsPixels (edge : DrawEdge) (vx vy : Nat) : Nat → List Byte → List (Fin 64 × Fin 32)
  | _, [] => []
  | r, b :: bs => columns.flatMap (bitPixels edge vx vy r b) ++ rowsPixels edge vx vy (r + 1) bs

theorem Canvas.drawBit_eq (edge : DrawEdge) (vx vy r : Nat) (b : Byte) (k : Canvas) (c : Nat) :
    k.drawBit edge vx vy r b c = (bitPixels edge vx vy r b c).foldl Canvas.drawPixel k := by
  unfold Canvas.drawBit bitPixels
  split
  · cases pixelAt edge vx vy r c <;> rfl
  · rfl

theorem Canvas.drawRow_eq (edge : DrawEdge) (vx vy r : Nat) (b : Byte) (k : Canvas) :
    k.drawRow edge vx vy r b = (columns.flatMap (bitPixels edge vx vy r b)).foldl Canvas.drawPixel k := by
  rw [Canvas.drawRow, List.foldl_flatMap]
  congr 1
  funext k c
  exact Canvas.drawBit_eq edge vx vy r b k c

theorem Canvas.drawRows_eq (edge : DrawEdge) (vx vy r : Nat) (bs : List Byte) (k : Canvas) :
    Canvas.drawRows edge vx vy r bs k = (rowsPixels edge vx vy r bs).foldl Canvas.drawPixel k := by
  induction bs generalizing r k with
  | nil => rfl
  | cons b bs ih => rw [Canvas.drawRows, ih, Canvas.drawRow_eq, rowsPixels, List.foldl_append]

theorem mem_columns (c : Nat) : c ∈ columns ↔ c < 8 := by
  simp only [columns, List.mem_cons, List.not_mem_nil, or_false]
  omega

theorem mem_bitPixels (edge : DrawEdge) (vx vy r : Nat) (b : Byte) (c : Nat) (x : Fin 64) (y : Fin 32) :
    (x, y) ∈ bitPixels edge vx vy r b c ↔ b.getLsbD (7 - c) = true ∧ DrawnAt edge vx vy r c x y := by
  unfold bitPixels
  split
  · next h => rw [Option.mem_toList, pixelAt_eq_some]; simp [h]
  · next h => simp [h]

theorem mem_rowPixels (edge : DrawEdge) (vx vy r : Nat) (b : Byte) (x : Fin 64) (y : Fin 32) :
    (x, y) ∈ columns.flatMap (bitPixels edge vx vy r b) ↔
      ∃ c, c < 8 ∧ b.getLsbD (7 - c) = true ∧ DrawnAt edge vx vy r c x y := by
  simp only [List.mem_flatMap, mem_columns, mem_bitPixels]

theorem mem_rowsPixels (edge : DrawEdge) (vx vy r : Nat) (bs : List Byte) (x : Fin 64) (y : Fin 32) :
    (x, y) ∈ rowsPixels edge vx vy r bs ↔ ∃ j c, SpriteBit bs j c ∧ DrawnAt edge vx vy (r + j) c x y := by
  induction bs generalizing r with
  | nil => simp [rowsPixels, SpriteBit]
  | cons b bs ih =>
    rw [rowsPixels, List.mem_append, mem_rowPixels, ih]
    constructor
    · rintro (⟨c, hc, hb, hd⟩ | ⟨j, c, ⟨hc, b', hb', hs⟩, hd⟩)
      · exact ⟨0, c, ⟨hc, b, rfl, hb⟩, hd⟩
      · exact ⟨j + 1, c, ⟨hc, b', by simpa using hb', hs⟩, by rwa [show r + (j + 1) = r + 1 + j by omega]⟩
    · rintro ⟨j, c, ⟨hc, b', hb', hs⟩, hd⟩
      cases j with
      | zero =>
        obtain rfl : b = b' := by simpa using hb'
        exact .inl ⟨c, hc, hs, hd⟩
      | succ j => exact .inr ⟨j, c, ⟨hc, b', by simpa using hb', hs⟩, by rwa [show r + 1 + j = r + (j + 1) by omega]⟩

theorem nodup_rowPixels (edge : DrawEdge) (vx vy r : Nat) (b : Byte) (hr : r < 32) :
    (columns.flatMap (bitPixels edge vx vy r b)).Nodup := by
  rw [List.nodup_flatMap]
  refine ⟨fun c _ => ?_, ?_⟩
  · unfold bitPixels
    split
    · cases pixelAt edge vx vy r c <;> simp
    · simp
  · have hp : columns.Pairwise (fun c c' => c < 8 ∧ c' < 8 ∧ c ≠ c') := by decide
    refine hp.imp ?_
    rintro c c' ⟨hc, hc', hne⟩ ⟨x, y⟩ h h'
    exact hne (DrawnAt.inj ((mem_bitPixels ..).1 h).2 ((mem_bitPixels ..).1 h').2 hr hr hc hc').2

/-- No two set bits of a draw fall on one pixel (40_display.md R108). -/
theorem nodup_rowsPixels (edge : DrawEdge) (vx vy r : Nat) (bs : List Byte) (h : r + bs.length ≤ 32) :
    (rowsPixels edge vx vy r bs).Nodup := by
  induction bs generalizing r with
  | nil => exact List.nodup_nil
  | cons b bs ih =>
    rw [List.length_cons] at h
    rw [rowsPixels, List.nodup_append]
    refine ⟨nodup_rowPixels edge vx vy r b (by omega), ih (r + 1) (by omega), ?_⟩
    rintro ⟨x, y⟩ ha ⟨x', y'⟩ hb heq
    obtain ⟨rfl, rfl⟩ := Prod.mk.inj heq
    obtain ⟨c, hc, -, hd⟩ := (mem_rowPixels ..).1 ha
    obtain ⟨j, c', ⟨hc', b', hb', -⟩, hd'⟩ := (mem_rowsPixels ..).1 hb
    have hj : j < bs.length := by
      by_contra hge
      rw [List.getElem?_eq_none (by omega)] at hb'
      cases hb'
    have := (DrawnAt.inj hd hd' (by omega) (by omega) hc hc').1
    omega

/-- The pixels Dxyn touches are those its n bytes from I touch. -/
theorem drawTouches_iff (s : State) (x y : Reg) (n : Fin 16) (px : Fin 64) (py : Fin 32) :
    DrawTouches s x y n px py ↔
      Touches Config.params.drawEdge (s.reg x) (s.reg y) (Memory.readBytes s.mem s.i.toNat n.val) px py := by
  unfold DrawTouches Touches SpriteBit
  refine exists_congr fun r => exists_congr fun c => ?_
  rw [Memory.readBytes_get]
  by_cases hr : r < n.val
  · simp [hr, State.readByte, and_assoc]
  · simp [hr]

/-! ### What drawing a list of distinct pixels does -/

theorem drawPixels_get (qs : List (Fin 64 × Fin 32)) (k : Canvas) (h : qs.Nodup) (x : Fin 64) (y : Fin 32) :
    (qs.foldl Canvas.drawPixel k).fb.get x y = if (x, y) ∈ qs then !(k.fb.get x y) else k.fb.get x y := by
  induction qs generalizing k with
  | nil => simp
  | cons q qs ih =>
    obtain ⟨hq, hn⟩ := List.nodup_cons.1 h
    obtain ⟨x', y'⟩ := q
    rw [List.foldl_cons, ih _ hn]
    by_cases he : x = x' ∧ y = y'
    · obtain ⟨rfl, rfl⟩ := he
      simp [hq, Canvas.drawPixel]
    · simp [he, Canvas.drawPixel, Frame.get_flip]

theorem drawPixels_collision (qs : List (Fin 64 × Fin 32)) (k : Canvas) (h : qs.Nodup) :
    (qs.foldl Canvas.drawPixel k).collision = true ↔
      k.collision = true ∨ ∃ q ∈ qs, k.fb.get q.1 q.2 = true := by
  induction qs generalizing k with
  | nil => simp
  | cons q qs ih =>
    obtain ⟨hq, hn⟩ := List.nodup_cons.1 h
    have other : ∀ p ∈ qs, (k.drawPixel q).fb.get p.1 p.2 = k.fb.get p.1 p.2 := by
      intro p hp
      have : ¬ (p.1 = q.1 ∧ p.2 = q.2) := fun he => hq (by rwa [show q = p from Prod.ext he.1.symm he.2.symm])
      simp [Canvas.drawPixel, this]
    have hex : (∃ p ∈ qs, (k.drawPixel q).fb.get p.1 p.2 = true) ↔ ∃ p ∈ qs, k.fb.get p.1 p.2 = true :=
      exists_congr fun p => and_congr_right fun hp => by rw [other p hp]
    have hcol : (k.drawPixel q).collision = true ↔ k.collision = true ∨ k.fb.get q.1 q.2 = true := by
      simp [Canvas.drawPixel]
    rw [List.foldl_cons, ih _ hn, hex, hcol]
    simp [or_assoc]

theorem drawPixels_touched (qs : List (Fin 64 × Fin 32)) (k : Canvas) :
    (qs.foldl Canvas.drawPixel k).touched = true ↔ k.touched = true ∨ qs ≠ [] := by
  induction qs generalizing k with
  | nil => simp
  | cons q qs ih => simp [ih, Canvas.drawPixel]

/-! ### What a whole draw does -/

/-- A draw inverts the pixels its set bits touch and no other (40_display.md R101, R102, R106). -/
theorem drawSprite_get (edge : DrawEdge) (vx vy : Byte) (rows : List Byte) (f : Frame) (h : rows.length ≤ 32)
    (x : Fin 64) (y : Fin 32) :
    (Touches edge vx vy rows x y → (drawSprite edge vx vy rows f).fb.get x y = !(f.get x y)) ∧
    (¬ Touches edge vx vy rows x y → (drawSprite edge vx vy rows f).fb.get x y = f.get x y) := by
  have hm := mem_rowsPixels edge vx.toNat vy.toNat 0 rows x y
  simp only [Nat.zero_add] at hm
  rw [drawSprite, Canvas.drawRows_eq, drawPixels_get _ _ (nodup_rowsPixels _ _ _ _ _ (by omega))]
  refine ⟨fun ht => if_pos (hm.2 ht), fun ht => if_neg (fun hin => ht (hm.1 hin))⟩

/-- The collision is that some touched pixel was set before the draw (40_display.md R105). -/
theorem drawSprite_collision (edge : DrawEdge) (vx vy : Byte) (rows : List Byte) (f : Frame) (h : rows.length ≤ 32) :
    (drawSprite edge vx vy rows f).collision = true ↔
      ∃ x y, Touches edge vx vy rows x y ∧ f.get x y = true := by
  have hm := mem_rowsPixels edge vx.toNat vy.toNat 0 rows
  simp only [Nat.zero_add] at hm
  rw [drawSprite, Canvas.drawRows_eq, drawPixels_collision _ _ (nodup_rowsPixels _ _ _ _ _ (by omega))]
  constructor
  · rintro (h0 | ⟨⟨x, y⟩, hq, hg⟩)
    · cases h0
    · exact ⟨x, y, (hm x y).1 hq, hg⟩
  · rintro ⟨x, y, ht, hg⟩
    exact .inr ⟨(x, y), (hm x y).2 ht, hg⟩

/-- Touched is that some pixel was drawn (40_display.md R104). -/
theorem drawSprite_touched (edge : DrawEdge) (vx vy : Byte) (rows : List Byte) (f : Frame) :
    (drawSprite edge vx vy rows f).touched = true ↔ ∃ x y, Touches edge vx vy rows x y := by
  have hm := mem_rowsPixels edge vx.toNat vy.toNat 0 rows
  simp only [Nat.zero_add] at hm
  rw [drawSprite, Canvas.drawRows_eq, drawPixels_touched]
  constructor
  · rintro (h0 | hne)
    · cases h0
    · obtain ⟨⟨x, y⟩, hq⟩ := List.exists_mem_of_ne_nil _ hne
      exact ⟨x, y, (hm x y).1 hq⟩
  · rintro ⟨x, y, ht⟩
    exact .inr (List.ne_nil_of_mem ((hm x y).2 ht))

end Sys2Proof.Machine
end

