-- ==== Sys2Proof/Laws/Operands.lean ====
section
/-! SUPPORT. What each operand form, flag and shared operation gives, once: the provers cite these. -/

namespace Sys2Proof.Machine

/-! ### Blocks of registers -/

@[simp] theorem State.regsUpTo_length (s : State) (x : Reg) : (s.regsUpTo x).length = x.val + 1 := by
  have := x.isLt
  simp [State.regsUpTo]

/-- Byte k of V0..Vx is Vk (43_index_memory.md R186). -/
theorem State.regsUpTo_get (s : State) (x k : Reg) (h : k ≤ x) : (s.regsUpTo x)[k.val]? = some (s.reg k) := by
  have hk : k.val < x.val + 1 := by
    rw [Fin.le_def] at h
    omega
  simp [State.regsUpTo, hk, State.reg]

/-- Writing registers from k on: register j gets byte j - k of the list, the others keep theirs. -/
theorem writeRegsFrom_get (v : Vector Byte 16) (k : Nat) (bs : List Byte) (j : Nat) (hj : j < 16) :
    (writeRegsFrom v k bs)[j] =
      if k ≤ j then (bs[j - k]?).getD v[j] else v[j] := by
  induction bs generalizing v k with
  | nil => simp [writeRegsFrom]
  | cons b bs ih =>
    rw [writeRegsFrom, ih, Vector.getElem_setIfInBounds]
    by_cases h1 : k + 1 ≤ j
    · have h2 : k ≤ j := by omega
      have h3 : ¬ k = j := by omega
      have h4 : j - k = (j - (k + 1)) + 1 := by omega
      simp [h1, h2, h3, h4]
    · by_cases h3 : k = j
      · subst h3
        simp
      · have h2 : ¬ k ≤ j := by omega
        simp [h1, h2, h3]

/-! ### Keys -/

theorem mem_allKeys (k : Fin 16) : k ∈ allKeys := by revert k; decide

theorem State.mem_pressedKeys (s : State) (k : Fin 16) : k ∈ s.pressedKeys ↔ s.key[k.val] = true := by
  simp [State.pressedKeys, mem_allKeys]

/-- The key chosen is one of the list (44_keypad.md R205). -/
theorem chooseKey_mem {d : Nat} {ks : List (Fin 16)} {k : Fin 16} (h : chooseKey d ks = some k) : k ∈ ks := by
  unfold chooseKey at h
  split at h
  · cases h
  · simpa using h.symm
  · exact List.mem_of_getElem? h

/-- A key is chosen exactly when the list holds one. -/
theorem chooseKey_none (d : Nat) (ks : List (Fin 16)) : chooseKey d ks = none ↔ ks = [] := by
  unfold chooseKey
  split
  · simp
  · simp
  · next k ks _ =>
    have : d % (ks.length + 1) < (k :: ks).length := by
      rw [List.length_cons]
      exact Nat.mod_lt _ (by omega)
    rw [List.getElem?_eq_getElem this]
    simp

/-! ### Flags and arithmetic -/

/-- `NoBorrow` under each comparison (42_alu.md R160). -/
theorem noBorrow_iff (cmp : BorrowCompare) (a b : Byte) :
    noBorrow cmp a b = true ↔
      match cmp with
      | .ge => b.toNat ≤ a.toNat
      | .gt => b.toNat < a.toNat := by
  have : a = b ↔ a.toNat = b.toNat := BitVec.toNat_inj.symm
  cases cmp <;> simp [noBorrow, this]
  omega

theorem carryOut_iff (a b : Byte) : carryOut a b = true ↔ 255 < a.toNat + b.toNat := by
  simp [carryOut]

@[simp] theorem boolByte_true : boolByte true = 1 := rfl
@[simp] theorem boolByte_false : boolByte false = 0 := rfl

@[simp] theorem addressOf_toNat (nnn : Imm12) : (addressOf nnn).toNat = nnn.toNat := by
  have := nnn.isLt
  simp [addressOf]
  omega

@[simp] theorem wordOf_toNat (b : Byte) : (wordOf b).toNat = b.toNat := by
  have := b.isLt
  simp [wordOf]
  omega

/-- Bit 0 as a byte is the remainder by 2 (42_alu.md R162). -/
theorem boolByte_bitShiftedRight (a : Byte) : (boolByte (bitShiftedRight a)).toNat = a.toNat % 2 := by
  revert a; decide

/-- Bit 7 as a byte is the quotient by 128 (42_alu.md R164). -/
theorem boolByte_bitShiftedLeft (a : Byte) : (boolByte (bitShiftedLeft a)).toNat = a.toNat / 128 := by
  revert a; decide

/-- The address of a digit's glyph is FONT_BASE + 5 d, below 0x200 (43_index_memory.md R184). -/
theorem glyphAddress_toNat (p : Params) (d : Byte) (h : d.toNat ≤ 15) :
    (glyphAddress p d).toNat = p.fontBase.val + 5 * d.toNat := by
  have := p.fontBase.isLt
  simp [glyphAddress]
  omega

/-! ### The call stack -/

/-- Everything a push can do (41_control_flow.md R121). -/
theorem State.push_eq_some {s t : State} {w : Word} (h : s.push w = some t) :
    ∃ hs : s.sp.val < 16,
      t = (s.setStack (s.stack.set s.sp.val w)).setSp ⟨s.sp.val + 1, by omega⟩ := by
  unfold State.push at h
  split at h
  · next hs => exact ⟨hs, (Option.some.inj h).symm⟩
  · cases h

theorem State.push_eq_none (s : State) (w : Word) : s.push w = none ↔ s.sp.val = 16 := by
  have := s.sp.isLt
  unfold State.push
  split <;> simp <;> omega

/-- Everything a pop can do (41_control_flow.md R123). -/
theorem State.pop_eq_some {s t : State} {w : Word} (h : s.pop = some (w, t)) :
    ∃ hs : 0 < s.sp.val, w = s.stack[s.sp.val - 1] ∧ t = s.setSp ⟨s.sp.val - 1, by omega⟩ := by
  unfold State.pop at h
  split at h
  · next hs =>
    obtain ⟨h1, h2⟩ := Prod.mk.inj (Option.some.inj h)
    exact ⟨hs, h1.symm, h2.symm⟩
  · cases h

theorem State.pop_eq_none (s : State) : s.pop = none ↔ s.sp.val = 0 := by
  unfold State.pop
  split <;> simp <;> omega

/-! ### Timers -/

theorem countDown_toNat (t : Byte) : (countDown t).toNat = t.toNat - 1 := by
  revert t; decide

theorem policyCountDown_perStep (t : Byte) : policyCountDown .perStep t = countDown t := by
  unfold policyCountDown
  split
  · next h => rw [h]; rfl
  · rfl

theorem policyCountDown_externalTick (t : Byte) : policyCountDown .externalTick t = t := by
  unfold policyCountDown
  split
  · next h => rw [h]
  · rfl

end Sys2Proof.Machine
end

