-- ==== Sys2Proof/Laws/PerInstr.lean ====
section
/-! SUPPORT. Per instruction: its word belongs to its own row of the opcode table (30_encoding.md R77), at every value of
its operands. -/

namespace Sys2Proof.Laws

/-! ### A packed word under the table's masks -/

theorem packA_and_class (c : BitVec 4) (nnn : Imm12) : packA c nnn &&& 0xF000 = packA c 0 := by
  have h : (0xF000 : Word) = packA 0xF 0 := by decide
  rw [h, packA, packA, packA, BitVec.and_append, show (0xF : BitVec 4) = BitVec.allOnes 4 by decide,
    BitVec.and_allOnes]
  simp

theorem packXB_and_class (c : BitVec 4) (x : Reg) (nn : Byte) : packXB c x nn &&& 0xF000 = packA c 0 := by
  rw [← packA_and_class c ((BitVec.ofFin x : BitVec 4) ++ nn), packXB, packA]
  congr 1
  apply BitVec.eq_of_toNat_eq
  rw [← packXB, packXB_toNat, ← packA, packA_toNat]
  rw [BitVec.toNat_append, ← Nat.shiftLeft_add_eq_or_of_lt (by exact BitVec.isLt _), Nat.shiftLeft_eq]
  simp
  omega

theorem packXB_and_subcode (c : BitVec 4) (x : Reg) (nn : Byte) : packXB c x nn &&& 0xF0FF = packXB c 0 nn := by
  have h : (0xF0FF : Word) = packXB 0xF 0 0xFF := by decide
  rw [h, packXB, packXB, packXB, BitVec.and_append, BitVec.and_append, show (0xF : BitVec 4) = BitVec.allOnes 4 by decide,
    show (0xFF : Byte) = BitVec.allOnes 8 by decide, show (BitVec.ofFin (0 : Reg) : BitVec 4) = 0 by rfl,
    BitVec.and_allOnes, BitVec.and_allOnes]
  simp

theorem packXYN_and_class (c : BitVec 4) (x y n : Fin 16) : packXYN c x y n &&& 0xF000 = packA c 0 := by
  rw [← packXB_and_class c x ((BitVec.ofFin y : BitVec 4) ++ (BitVec.ofFin n : BitVec 4))]
  congr 1
  apply BitVec.eq_of_toNat_eq
  rw [packXB_toNat, packXYN_toNat, BitVec.toNat_append, ← Nat.shiftLeft_add_eq_or_of_lt (by exact BitVec.isLt _),
    Nat.shiftLeft_eq]
  simp
  omega

theorem packXYN_and_subcode (c : BitVec 4) (x y n : Fin 16) : packXYN c x y n &&& 0xF00F = packXYN c 0 0 n := by
  have h : (0xF00F : Word) = packXYN 0xF 0 0 0xF := by decide
  rw [h, packXYN, packXYN, packXYN, BitVec.and_append, BitVec.and_append, BitVec.and_append,
    show (0xF : BitVec 4) = BitVec.allOnes 4 by decide, show (BitVec.ofFin (0xF : Fin 16) : BitVec 4) = BitVec.allOnes 4 by rfl,
    show (BitVec.ofFin (0 : Reg) : BitVec 4) = 0 by rfl, BitVec.and_allOnes, BitVec.and_allOnes]
  simp

end Sys2Proof.Laws

namespace Sys2Proof.Laws.EncodingMatchesRow

/-- The instruction's word is recognised by a row of the table that has its mnemonic. -/
def Statement (i : Instr) : Prop :=
  ∃ r ∈ opcodeRows, r.mnemonic = i.mnemonic ∧ r.matches (encodeWord i) = true

/-- A statement follows from the row, its place in the table, and its match. -/
theorem of_row {i : Instr} (r : OpcodeRow) (hr : r ∈ opcodeRows) (hm : r.mnemonic = i.mnemonic)
    (hw : encodeWord i &&& r.mask = r.pattern) : Statement i :=
  ⟨r, hr, hm, by simp [OpcodeRow.matches, hw]⟩

theorem cls : Statement .cls :=
  of_row ⟨"CLS", 0xFFFF, 0x00E0⟩ (by decide) rfl (by decide)

theorem ret : Statement .ret :=
  of_row ⟨"RET", 0xFFFF, 0x00EE⟩ (by decide) rfl (by decide)

theorem jp (nnn : Imm12) : Statement (.jp nnn) :=
  of_row ⟨"JP_nnn", 0xF000, 0x1000⟩ (by decide) rfl
    ((packA_and_class 0x1 nnn).trans (by decide))

theorem call (nnn : Imm12) : Statement (.call nnn) :=
  of_row ⟨"CALL_nnn", 0xF000, 0x2000⟩ (by decide) rfl
    ((packA_and_class 0x2 nnn).trans (by decide))

theorem seByte (x : Reg) (nn : Byte) : Statement (.seByte x nn) :=
  of_row ⟨"SE_Vx__nn", 0xF000, 0x3000⟩ (by decide) rfl
    ((packXB_and_class 0x3 x nn).trans (by decide))

theorem sneByte (x : Reg) (nn : Byte) : Statement (.sneByte x nn) :=
  of_row ⟨"SNE_Vx__nn", 0xF000, 0x4000⟩ (by decide) rfl
    ((packXB_and_class 0x4 x nn).trans (by decide))

theorem seReg (x y : Reg) : Statement (.seReg x y) :=
  of_row ⟨"SE_Vx__Vy", 0xF00F, 0x5000⟩ (by decide) rfl
    ((packXYN_and_subcode 0x5 x y 0x0).trans (by decide))

theorem ldByte (x : Reg) (nn : Byte) : Statement (.ldByte x nn) :=
  of_row ⟨"LD_Vx__nn", 0xF000, 0x6000⟩ (by decide) rfl
    ((packXB_and_class 0x6 x nn).trans (by decide))

theorem addByte (x : Reg) (nn : Byte) : Statement (.addByte x nn) :=
  of_row ⟨"ADD_Vx__nn", 0xF000, 0x7000⟩ (by decide) rfl
    ((packXB_and_class 0x7 x nn).trans (by decide))

theorem ldReg (x y : Reg) : Statement (.ldReg x y) :=
  of_row ⟨"LD_Vx__Vy", 0xF00F, 0x8000⟩ (by decide) rfl
    ((packXYN_and_subcode 0x8 x y 0x0).trans (by decide))

theorem orReg (x y : Reg) : Statement (.orReg x y) :=
  of_row ⟨"OR_Vx__Vy", 0xF00F, 0x8001⟩ (by decide) rfl
    ((packXYN_and_subcode 0x8 x y 0x1).trans (by decide))

theorem andReg (x y : Reg) : Statement (.andReg x y) :=
  of_row ⟨"AND_Vx__Vy", 0xF00F, 0x8002⟩ (by decide) rfl
    ((packXYN_and_subcode 0x8 x y 0x2).trans (by decide))

theorem xorReg (x y : Reg) : Statement (.xorReg x y) :=
  of_row ⟨"XOR_Vx__Vy", 0xF00F, 0x8003⟩ (by decide) rfl
    ((packXYN_and_subcode 0x8 x y 0x3).trans (by decide))

theorem addReg (x y : Reg) : Statement (.addReg x y) :=
  of_row ⟨"ADD_Vx__Vy", 0xF00F, 0x8004⟩ (by decide) rfl
    ((packXYN_and_subcode 0x8 x y 0x4).trans (by decide))

theorem subReg (x y : Reg) : Statement (.subReg x y) :=
  of_row ⟨"SUB_Vx__Vy", 0xF00F, 0x8005⟩ (by decide) rfl
    ((packXYN_and_subcode 0x8 x y 0x5).trans (by decide))

theorem shr (x y : Reg) : Statement (.shr x y) :=
  of_row ⟨"SHR_Vx__Vy", 0xF00F, 0x8006⟩ (by decide) rfl
    ((packXYN_and_subcode 0x8 x y 0x6).trans (by decide))

theorem subnReg (x y : Reg) : Statement (.subnReg x y) :=
  of_row ⟨"SUBN_Vx__Vy", 0xF00F, 0x8007⟩ (by decide) rfl
    ((packXYN_and_subcode 0x8 x y 0x7).trans (by decide))

theorem shl (x y : Reg) : Statement (.shl x y) :=
  of_row ⟨"SHL_Vx__Vy", 0xF00F, 0x800E⟩ (by decide) rfl
    ((packXYN_and_subcode 0x8 x y 0xE).trans (by decide))

theorem sneReg (x y : Reg) : Statement (.sneReg x y) :=
  of_row ⟨"SNE_Vx__Vy", 0xF00F, 0x9000⟩ (by decide) rfl
    ((packXYN_and_subcode 0x9 x y 0x0).trans (by decide))

theorem ldI (nnn : Imm12) : Statement (.ldI nnn) :=
  of_row ⟨"LD_I__nnn", 0xF000, 0xA000⟩ (by decide) rfl
    ((packA_and_class 0xA nnn).trans (by decide))

theorem jpV0 (nnn : Imm12) : Statement (.jpV0 nnn) :=
  of_row ⟨"JP_V0__nnn", 0xF000, 0xB000⟩ (by decide) rfl
    ((packA_and_class 0xB nnn).trans (by decide))

theorem rnd (x : Reg) (nn : Byte) : Statement (.rnd x nn) :=
  of_row ⟨"RND_Vx__nn", 0xF000, 0xC000⟩ (by decide) rfl
    ((packXB_and_class 0xC x nn).trans (by decide))

theorem drw (x y : Reg) (n : Fin 16) : Statement (.drw x y n) :=
  of_row ⟨"DRW_Vx__Vy__n", 0xF000, 0xD000⟩ (by decide) rfl
    ((packXYN_and_class 0xD x y n).trans (by decide))

theorem skp (x : Reg) : Statement (.skp x) :=
  of_row ⟨"SKP_Vx", 0xF0FF, 0xE09E⟩ (by decide) rfl
    ((packXB_and_subcode 0xE x 0x9E).trans (by decide))

theorem sknp (x : Reg) : Statement (.sknp x) :=
  of_row ⟨"SKNP_Vx", 0xF0FF, 0xE0A1⟩ (by decide) rfl
    ((packXB_and_subcode 0xE x 0xA1).trans (by decide))

theorem ldVxDt (x : Reg) : Statement (.ldVxDt x) :=
  of_row ⟨"LD_Vx__DT", 0xF0FF, 0xF007⟩ (by decide) rfl
    ((packXB_and_subcode 0xF x 0x07).trans (by decide))

theorem ldVxK (x : Reg) : Statement (.ldVxK x) :=
  of_row ⟨"LD_Vx__K", 0xF0FF, 0xF00A⟩ (by decide) rfl
    ((packXB_and_subcode 0xF x 0x0A).trans (by decide))

theorem ldDtVx (x : Reg) : Statement (.ldDtVx x) :=
  of_row ⟨"LD_DT__Vx", 0xF0FF, 0xF015⟩ (by decide) rfl
    ((packXB_and_subcode 0xF x 0x15).trans (by decide))

theorem ldStVx (x : Reg) : Statement (.ldStVx x) :=
  of_row ⟨"LD_ST__Vx", 0xF0FF, 0xF018⟩ (by decide) rfl
    ((packXB_and_subcode 0xF x 0x18).trans (by decide))

theorem addI (x : Reg) : Statement (.addI x) :=
  of_row ⟨"ADD_I__Vx", 0xF0FF, 0xF01E⟩ (by decide) rfl
    ((packXB_and_subcode 0xF x 0x1E).trans (by decide))

theorem ldF (x : Reg) : Statement (.ldF x) :=
  of_row ⟨"LD_F__Vx", 0xF0FF, 0xF029⟩ (by decide) rfl
    ((packXB_and_subcode 0xF x 0x29).trans (by decide))

theorem ldBcd (x : Reg) : Statement (.ldBcd x) :=
  of_row ⟨"LD_B__Vx", 0xF0FF, 0xF033⟩ (by decide) rfl
    ((packXB_and_subcode 0xF x 0x33).trans (by decide))

theorem storeRegs (x : Reg) : Statement (.storeRegs x) :=
  of_row ⟨"LD__I___Vx", 0xF0FF, 0xF055⟩ (by decide) rfl
    ((packXB_and_subcode 0xF x 0x55).trans (by decide))

theorem loadRegs (x : Reg) : Statement (.loadRegs x) :=
  of_row ⟨"LD_Vx___I", 0xF0FF, 0xF065⟩ (by decide) rfl
    ((packXB_and_subcode 0xF x 0x65).trans (by decide))

end Sys2Proof.Laws.EncodingMatchesRow
end

