-- ==== Sys2Proof/Laws/Step.lean ====
section
/-! SUPPORT. Everything a step can do, once. -/

namespace Sys2Proof.Machine

/-- The end of a step changes nothing but the two timers, and them only where the step raised nothing. -/
theorem State.endStep_running {s : State} (h : s.status = .running) :
    s.endStep = s.policyTick Config.params.timerPolicy := by
  simp [State.endStep, h]

theorem State.endStep_halted {s : State} {c : Condition} (h : s.status = .halted c) : s.endStep = s := by
  simp [State.endStep, h]

theorem finishStep_next {o : Host.Outcome State Fault Refusal} {t : State} (h : finishStep o = .next t) :
    ∃ u, o = .next u ∧ t = u.endStep := by
  cases o with
  | next u => exact ⟨u, rfl, by injection h with h; exact h.symm⟩
  | fault r => cases h
  | refused r => cases h

/-- Everything the fetch can give. -/
theorem State.fetchInstr_cases (s : State) :
    (0xFFF ≤ s.pc.toNat ∧ s.fetchInstr = .error (.fetchOutOfRange s.pc)) ∨
    (s.pc.toNat < 0xFFF ∧
      ((∃ i, decodeWord (wordOfBytes (s.readByte s.pc.toNat) (s.readByte (s.pc.toNat + 1))) = .ok i ∧
          s.fetchInstr = .ok i) ∨
       (∃ e, decodeWord (wordOfBytes (s.readByte s.pc.toNat) (s.readByte (s.pc.toNat + 1))) = .error e ∧
          s.fetchInstr = .error
            (.unrecognizedInstruction (wordOfBytes (s.readByte s.pc.toNat) (s.readByte (s.pc.toNat + 1))))))) := by
  by_cases h : s.pc.toNat + 1 ≤ 0xFFF
  · right
    refine ⟨by omega, ?_⟩
    cases hd : decodeWord (wordOfBytes (s.readByte s.pc.toNat) (s.readByte (s.pc.toNat + 1))) with
    | ok i => left; exact ⟨i, rfl, by simp [State.fetchInstr, State.fetchWord, h, hd]⟩
    | error e => right; exact ⟨e, rfl, by simp [State.fetchInstr, State.fetchWord, h, hd]⟩
  · left
    exact ⟨by omega, by simp [State.fetchInstr, State.fetchWord, h]⟩

/-- Everything a step that answers a next state has done (30_encoding.md R90). -/
theorem step_cases {s t : State} (h : step s = .next t) :
    ((∃ c, s.status = .halted c) ∧ t = s) ∨
    (s.status = .running ∧ ∃ c, s.fetchInstr = .error c ∧ t = s.raise c) ∨
    (s.status = .running ∧ ∃ i u, s.fetchInstr = .ok i ∧ exec i s = .next u ∧ t = u.endStep) := by
  unfold step at h
  split at h
  · next c hc =>
    injection h with h
    exact .inl ⟨⟨c, hc⟩, h.symm⟩
  · next hr =>
    split at h
    · next c hf =>
      injection h with h
      exact .inr (.inl ⟨hr, c, hf, h.symm⟩)
    · next i hf =>
      obtain ⟨u, hu, ht⟩ := finishStep_next h
      exact .inr (.inr ⟨hr, i, u, hf, hu, ht⟩)

end Sys2Proof.Machine
end

