-- ==== Sys2Proof/Tests/Slice0.lean ====
section
/-! SUPPORT. Tests: words and vectors of 95_test_vectors.md and of the rules' own examples, one step each, and the smoke
tests of the opcode table. Expected results are the spec's. -/

namespace Sys2Proof.Tests

open Sys2Proof.Machine

/-- The state after reset with some registers set. -/
def withRegs (l : List (Reg × Byte)) : State := l.foldl (fun s p => s.setReg p.1 p.2) State.reset

/-- Place a word at pc and take one step. -/
def runWord (w : Nat) (s : State) : Host.Outcome State Fault Refusal := step (s.withFetchWord 16 w)

/-- The outcome is a next state with the property. -/
def nextHas (o : Host.Outcome State Fault Refusal) (p : State → Bool) : Bool :=
  match o with
  | .next s => p s
  | .fault _ => false
  | .refused _ => false

/-! ### The opcode table refuses illegal words (30_encoding.md R79; 95_test_vectors.md L2.1) -/

theorem test_illegal_class0 : legalWord 0x0000 = false ∧ legalWord 0x00E1 = false ∧ legalWord 0x0123 = false := by decide
theorem test_illegal_class5 : legalWord 0x5121 = false := by decide
theorem test_illegal_class8 : legalWord 0x8008 = false ∧ legalWord 0x800F = false := by decide
theorem test_illegal_class9 : legalWord 0x9AB7 = false := by decide
theorem test_illegal_classE : legalWord 0xE000 = false ∧ legalWord 0xE19F = false := by decide
theorem test_illegal_classF : legalWord 0xF000 = false ∧ legalWord 0xF0FF = false ∧ legalWord 0xF030 = false := by decide
theorem test_table_size : opcodeRows.length = 34 := by decide
theorem test_decoder_refuses :
    decodeTableWord 16 0x0000 = none ∧ decodeTableWord 16 0x5121 = none ∧ decodeTableWord 16 0x9AB7 = none ∧
    decodeTableWord 16 0x8008 = none ∧ decodeTableWord 16 0xE19F = none ∧ decodeTableWord 16 0xF030 = none := by decide
theorem test_decoder_truncated : decodeBytes [0x12] = .error .truncated := by decide
theorem test_decoder_leaves_rest : decodeBytes [0x12, 0x34, 0x56] = .ok (.jp 0x234, [0x56]) := by decide

/-! ### Every constructor's word, written from its pattern (30_encoding.md R76, R77) -/

/-- Field extraction of 0xD4A7 (95_test_vectors.md L2.1). -/
theorem test_fields : fieldClass 0xD4A7 = 0xD ∧ fieldX 0xD4A7 = 4 ∧ fieldY 0xD4A7 = 0xA ∧ fieldN 0xD4A7 = 7 ∧
    fieldNn 0xD4A7 = 0xA7 ∧ fieldNnn 0xD4A7 = 0x4A7 := by decide
theorem test_decode_display : decodeTableWord 16 0b0000000011100000 = some .cls ∧
    decodeTableWord 16 0b1101010010100111 = some (.drw 4 0xA 7) := by decide
theorem test_decode_control : decodeTableWord 16 0b0000000011101110 = some .ret ∧
    decodeTableWord 16 0b0001101010111100 = some (.jp 0xABC) ∧ decodeTableWord 16 0b0010101010111100 = some (.call 0xABC) ∧
    decodeTableWord 16 0b0011000101000010 = some (.seByte 1 0x42) ∧
    decodeTableWord 16 0b0100000101000010 = some (.sneByte 1 0x42) ∧
    decodeTableWord 16 0b0101000100100000 = some (.seReg 1 2) ∧ decodeTableWord 16 0b1001000100100000 = some (.sneReg 1 2) ∧
    decodeTableWord 16 0b1011010100000000 = some (.jpV0 0x500) := by decide
theorem test_decode_loads : decodeTableWord 16 0b0110101001000010 = some (.ldByte 0xA 0x42) ∧
    decodeTableWord 16 0b0111000100000010 = some (.addByte 1 2) ∧ decodeTableWord 16 0b1000000100100000 = some (.ldReg 1 2) ∧
    decodeTableWord 16 0b1100000100001111 = some (.rnd 1 0x0F) := by decide
theorem test_decode_alu : decodeTableWord 16 0b1000000100100001 = some (.orReg 1 2) ∧
    decodeTableWord 16 0b1000000100100010 = some (.andReg 1 2) ∧ decodeTableWord 16 0b1000000100100011 = some (.xorReg 1 2) ∧
    decodeTableWord 16 0b1000000100100100 = some (.addReg 1 2) ∧ decodeTableWord 16 0b1000000100100101 = some (.subReg 1 2) ∧
    decodeTableWord 16 0b1000000100100110 = some (.shr 1 2) ∧ decodeTableWord 16 0b1000000100100111 = some (.subnReg 1 2) ∧
    decodeTableWord 16 0b1000000100101110 = some (.shl 1 2) := by decide
theorem test_decode_keys : decodeTableWord 16 0b1110010110011110 = some (.skp 5) ∧
    decodeTableWord 16 0b1110010110100001 = some (.sknp 5) ∧ decodeTableWord 16 0b1111001100001010 = some (.ldVxK 3) := by decide
theorem test_decode_timers : decodeTableWord 16 0b1111001000000111 = some (.ldVxDt 2) ∧
    decodeTableWord 16 0b1111000100010101 = some (.ldDtVx 1) ∧ decodeTableWord 16 0b1111000100011000 = some (.ldStVx 1) := by decide
theorem test_decode_index : decodeTableWord 16 0b1010000100100011 = some (.ldI 0x123) ∧
    decodeTableWord 16 0b1111001000011110 = some (.addI 2) ∧ decodeTableWord 16 0b1111010000101001 = some (.ldF 4) ∧
    decodeTableWord 16 0b1111010100110011 = some (.ldBcd 5) ∧ decodeTableWord 16 0b1111001001010101 = some (.storeRegs 2) ∧
    decodeTableWord 16 0b1111001001100101 = some (.loadRegs 2) := by decide

/-! ### The step cycle (95_test_vectors.md L2.1) -/

theorem test_step_unrecognized : nextHas (runWord 0x5121 State.reset)
    (fun t => t.status == .halted (.unrecognizedInstruction 0x5121) && t.pc == 0x200) := by decide
theorem test_step_last_word : nextHas (runWord 0x6001 (State.reset.setPc 0xFFE))
    (fun t => t.reg 0 == 1 && t.pc == 0x1000) := by decide
theorem test_step_fetch_out_of_range : nextHas (step (State.reset.setPc 0xFFF))
    (fun t => t.status == .halted (.fetchOutOfRange 0xFFF) && t.pc == 0xFFF) := by decide
theorem test_step_odd_pc : nextHas (runWord 0x1204 (State.reset.setPc 0x201)) (fun t => t.pc == 0x204) := by decide
theorem test_step_halted : nextHas (runWord 0x6001 (State.reset.raise .stackOverflow))
    (fun t => t.status == .halted .stackOverflow && t.reg 0 == 0 && t.pc == 0x200) := by decide

/-! ### Display (95_test_vectors.md L2.2) -/

theorem test_cls : nextHas (runWord 0x00E0 (State.reset.setFb (blankFrame.flip 63 31)))
    (fun t => t.fb == blankFrame && t.dirty && t.pc == 0x202) := by decide
theorem test_drw_pixel : nextHas (runWord 0xD231 ((withRegs [(2, 63), (3, 31)]).setI 0x300 |>.storeBytes 0x300 [0x80]))
    (fun t => t.fb.get 63 31 && t.reg 15 == 0 && t.dirty) := by decide
theorem test_drw_collision : nextHas
    (runWord 0xD011 ((State.reset.setFb (blankFrame.flip 0 0)).setI 0x300 |>.storeBytes 0x300 [0xC0]))
    (fun t => !t.fb.get 0 0 && t.fb.get 1 0 && t.reg 15 == 1) := by decide
theorem test_drw_out_of_range : nextHas (runWord 0xD012 (State.reset.setI 0xFFF))
    (fun t => t.status == .halted (.addressOutOfRange 0x1000) && !t.dirty) := by decide
theorem test_drw_no_rows : nextHas (runWord 0xD010 ((withRegs [(15, 0x33)]).setI 0xFFFF))
    (fun t => t.reg 15 == 0 && !t.dirty && t.status == .running) := by decide

/-- 95_test_vectors.md L2.2: V0 = 60, byte 0xFF wraps horizontally under WRAP and loses columns 4 to 7 under CLIP. -/
theorem test_drw_edges :
    (drawSprite .wrap 60 0 [0xFF] blankFrame).fb.get 3 0 = true ∧ (drawSprite .wrap 60 0 [0xFF] blankFrame).fb.get 63 0 = true ∧
    (drawSprite .clip 60 0 [0xFF] blankFrame).fb.get 3 0 = false ∧ (drawSprite .clip 60 0 [0xFF] blankFrame).fb.get 63 0 = true := by
  decide

/-! ### Control flow (95_test_vectors.md L2.3) -/

theorem test_jp : nextHas (runWord 0x1ABC State.reset) (fun t => t.pc == 0xABC) := by decide
theorem test_call : nextHas (runWord 0x2300 State.reset)
    (fun t => t.stack[0] == 0x202 && t.sp == 1 && t.pc == 0x300) := by decide
theorem test_call_full : nextHas (runWord 0x2300 (State.reset.setSp 16))
    (fun t => t.status == .halted .stackOverflow && t.sp == 16 && t.pc == 0x200) := by decide
theorem test_ret : nextHas (runWord 0x00EE (((State.reset.setPc 0x300).setSp 1).setStack (State.reset.stack.set 0 0x202)))
    (fun t => t.pc == 0x202 && t.sp == 0 && t.stack[0] == 0x202) := by decide
theorem test_ret_empty : nextHas (runWord 0x00EE (State.reset.setPc 0x300))
    (fun t => t.status == .halted .stackUnderflow && t.pc == 0x300) := by decide
theorem test_seByte : nextHas (runWord 0x3142 (withRegs [(1, 0x42)])) (fun t => t.pc == 0x204) := by decide
theorem test_seByte_not : nextHas (runWord 0x3142 (withRegs [(1, 0x41)])) (fun t => t.pc == 0x202) := by decide
theorem test_sneByte : nextHas (runWord 0x4142 (withRegs [(1, 0x41)])) (fun t => t.pc == 0x204) := by decide
theorem test_seReg : nextHas (runWord 0x5120 (withRegs [(1, 9), (2, 8)])) (fun t => t.pc == 0x202) := by decide
theorem test_sneReg : nextHas (runWord 0x9120 (withRegs [(1, 9), (2, 8)])) (fun t => t.pc == 0x204) := by decide
theorem test_jpV0 : nextHas (runWord 0xBFFF (withRegs [(0, 0xFF)])) (fun t => t.pc == 0x10FE) := by decide

/-! ### ALU (95_test_vectors.md L1-1, L2.4) -/

theorem test_ldByte : nextHas (runWord 0x6A42 State.reset) (fun t => t.reg 0xA == 0x42) := by decide
theorem test_addByte : nextHas (runWord 0x7102 (withRegs [(1, 0xFF), (15, 0x33)]))
    (fun t => t.reg 1 == 1 && t.reg 15 == 0x33) := by decide
theorem test_ldReg : nextHas (runWord 0x8120 (withRegs [(2, 0x9C)])) (fun t => t.reg 1 == 0x9C) := by decide
theorem test_orReg : nextHas (runWord 0x8121 (withRegs [(1, 0xF0), (2, 0x0F), (15, 0x33)]))
    (fun t => t.reg 1 == 0xFF && t.reg 15 == 0x33) := by decide
theorem test_andReg : nextHas (runWord 0x8122 (withRegs [(1, 0xF0), (2, 0x3C)])) (fun t => t.reg 1 == 0x30) := by decide
theorem test_xorReg : nextHas (runWord 0x8123 (withRegs [(1, 0xF0), (2, 0x3C)])) (fun t => t.reg 1 == 0xCC) := by decide
theorem test_addReg : nextHas (runWord 0x8124 (withRegs [(1, 0xFF), (2, 1)]))
    (fun t => t.reg 1 == 0 && t.reg 15 == 1) := by decide
theorem test_addReg_vf : nextHas (runWord 0x8F14 (withRegs [(15, 0x10), (1, 0x20)])) (fun t => t.reg 15 == 0) := by decide
theorem test_subReg : nextHas (runWord 0x8125 (withRegs [(1, 3), (2, 5)]))
    (fun t => t.reg 1 == 0xFE && t.reg 15 == 0) := by decide
theorem test_subReg_vf : nextHas (runWord 0x8F15 (withRegs [(15, 0x10), (1, 1)])) (fun t => t.reg 15 == 1) := by decide
theorem test_subnReg : nextHas (runWord 0x8127 (withRegs [(1, 3), (2, 5)]))
    (fun t => t.reg 1 == 2 && t.reg 15 == 1) := by decide
theorem test_noBorrow_equal : noBorrow .ge 7 7 = true ∧ noBorrow .gt 7 7 = false := by decide
theorem test_shr : nextHas (runWord 0x8126 (withRegs [(1, 5), (2, 0xFF)]))
    (fun t => t.reg 1 == 2 && t.reg 15 == 1) := by decide
theorem test_shr_vf : nextHas (runWord 0x8F06 (withRegs [(15, 2)])) (fun t => t.reg 15 == 0) := by decide
theorem test_shl : nextHas (runWord 0x810E (withRegs [(1, 0x81)]))
    (fun t => t.reg 1 == 2 && t.reg 15 == 1) := by decide
theorem test_shl_vf : nextHas (runWord 0x8F0E (withRegs [(15, 0x40)])) (fun t => t.reg 15 == 0) := by decide
theorem test_rnd_draws : nextHas (runWord 0xC10F State.reset) (fun t => t.draws == 1 && t.pc == 0x202) := by decide

/-! ### Index register and memory (95_test_vectors.md L2.5) -/

theorem test_ldI : nextHas (runWord 0xA123 State.reset) (fun t => t.i == 0x123) := by decide
theorem test_addI : nextHas (runWord 0xF11E ((withRegs [(1, 1), (15, 0x33)]).setI 0xFFF))
    (fun t => t.i == 0x1000 && t.reg 15 == 0x33) := by decide
theorem test_addI_wraps : nextHas (runWord 0xF11E ((withRegs [(1, 1)]).setI 0xFFFF)) (fun t => t.i == 0) := by decide
theorem test_ldF_out_of_range : nextHas (runWord 0xF129 (withRegs [(1, 0x10)]))
    (fun t => t.status == .halted (.fontDigitOutOfRange 0x10) && t.i == 0) := by decide
/-- 43_index_memory.md R184's example, with FONT_BASE = 0x050. -/
theorem test_glyph : glyphAddress ⟨.perStep, 0x50, conventionalGlyphs, .ge, .wrap⟩ 0x0A = 0x082 := by decide
theorem test_ldBcd : nextHas (runWord 0xF533 ((withRegs [(5, 234)]).setI 0x300))
    (fun t => t.readByte 0x300 == 2 && t.readByte 0x301 == 3 && t.readByte 0x302 == 4 && t.i == 0x300) := by decide
theorem test_ldBcd_out_of_range : nextHas (runWord 0xF133 ((withRegs [(1, 100)]).setI 0xFFE))
    (fun t => t.status == .halted (.addressOutOfRange 0x1000) && t.readByte 0xFFE == 0) := by decide
theorem test_storeRegs : nextHas (runWord 0xF255 ((withRegs [(0, 1), (1, 2), (2, 3), (3, 4)]).setI 0x400))
    (fun t => t.readByte 0x400 == 1 && t.readByte 0x402 == 3 && t.readByte 0x403 == 0 && t.i == 0x400) := by decide
theorem test_storeRegs_out_of_range : nextHas (runWord 0xFF55 (State.reset.setI 0xFF8))
    (fun t => t.status == .halted (.addressOutOfRange 0x1000)) := by decide
theorem test_loadRegs : nextHas (runWord 0xF265 (((withRegs [(3, 0x77)]).setI 0x300).storeBytes 0x300 [2, 3, 4]))
    (fun t => t.reg 0 == 2 && t.reg 1 == 3 && t.reg 2 == 4 && t.reg 3 == 0x77) := by decide
theorem test_loadRegs_out_of_range : nextHas (runWord 0xF265 (State.reset.setI 0xFFE))
    (fun t => t.status == .halted (.addressOutOfRange 0x1000)) := by decide
/-- 95_test_vectors.md program G: a store is seen by the next fetch. -/
theorem test_self_modifying : nextHas (exec (.storeRegs 1) ((withRegs [(0, 0x12), (1, 0x08)]).setI 0x202))
    (fun t => t.fetchWord == some 0x1208) := by decide

/-! ### Keypad (95_test_vectors.md L2.6) -/

/-- The state after reset with key k pressed. -/
def withKey (k : Fin 16) (s : State) : State := s.setKeys (s.key.set k.val true)

theorem test_skp : nextHas (runWord 0xE59E (withKey 0xA (withRegs [(5, 0xA)]))) (fun t => t.pc == 0x204) := by decide
theorem test_skp_out_of_range : nextHas (runWord 0xE59E (withRegs [(5, 0x10)]))
    (fun t => t.status == .halted (.keyIndexOutOfRange 0x10) && t.pc == 0x200) := by decide
theorem test_sknp : nextHas (runWord 0xE5A1 (withRegs [(5, 0xA)])) (fun t => t.pc == 0x204) := by decide
theorem test_sknp_pressed : nextHas (runWord 0xE5A1 (withKey 0xA (withRegs [(5, 0xA)]))) (fun t => t.pc == 0x202) := by decide
theorem test_ldVxK_waits : nextHas (runWord 0xF30A State.reset)
    (fun t => t.pc == 0x200 && t.reg 3 == 0 && t.status == .running) := by decide
theorem test_ldVxK : nextHas (runWord 0xF30A (withKey 7 State.reset)) (fun t => t.reg 3 == 7 && t.pc == 0x202) := by decide

/-! ### Timers (95_test_vectors.md L2.7) -/

theorem test_ldVxDt : nextHas (exec (.ldVxDt 2) (State.reset.setDelay 0x3C)) (fun t => t.reg 2 == 0x3C && t.delay == 0x3C) := by
  decide
theorem test_ldDtVx : nextHas (exec (.ldDtVx 1) (withRegs [(1, 10)])) (fun t => t.delay == 10 && t.sound == 0) := by decide
theorem test_ldStVx : nextHas (exec (.ldStVx 1) (withRegs [(1, 3)])) (fun t => t.sound == 3 && t.delay == 0) := by decide
theorem test_tick : ((State.reset.setDelay 1).setSound 0xFF).tick.delay = 0 ∧
    ((State.reset.setDelay 1).setSound 0xFF).tick.sound = 0xFE ∧ State.reset.tick.delay = 0 := by decide
theorem test_policy : policyCountDown .perStep 10 = 9 ∧ policyCountDown .externalTick 10 = 10 := by decide

/-! ### The host interface (95_test_vectors.md L1-8, L2.6, L2.8) -/

theorem test_reset_image : nextHas (resetWith 0 (some [0x12, 0x00]))
    (fun t => t.readByte 0x200 == 0x12 && t.readByte 0x201 == 0 && t.pc == 0x200 && t.status == .running) := by decide
theorem test_reset_unreadable : nextHas (resetWith 0 none)
    (fun t => t.status == .halted .loadFailure && t.readByte 0x200 == 0) := by decide
theorem test_reset_too_long : resetWith 0 (some (List.replicate 3585 0)) = .refused (.imageTooLong 3585) := by
  rw [resetWith, List.length_replicate, if_neg (by decide)]
theorem test_setKey_refused : State.setKey 16 true State.reset = .refused (.keyOutsideInterface 16) := by rfl
theorem test_setKey_halted : nextHas (State.setKey 3 true (State.reset.raise .stackOverflow))
    (fun t => t.key[3] && t.status == .halted .stackOverflow) := by decide

/-! ### Witnesses: for every statement with hypotheses, a state and operands that meet them together; where a statement has
clauses, one at the boundary of each. -/

/-- The state after reset with a word at pc. -/
def withWord (w : Nat) : State := State.reset.withFetchWord 16 w

theorem witness_EncodeOfDecodeIsTheWord : decodeWord 0xD4A7 = .ok (.drw 4 0xA 7) := by decide
theorem witness_RecognisedWordsAreTheTables : legalWord 0x9AB0 = true ∧ legalWord 0x9AB1 = false := by decide
theorem witness_NoWordBelongsToTwoRows :
    (⟨"RET", 0xFFFF, 0x00EE⟩ : OpcodeRow) ∈ opcodeRows ∧ (⟨"RET", 0xFFFF, 0x00EE⟩ : OpcodeRow).matches 0x00EE = true := by
  decide
theorem witness_StepRunsTheDecodedInstruction :
    let s := (State.reset.setPc 0xFFE).withFetchWord 16 0x6A42
    s.Running ∧ s.pc.toNat + 1 ≤ 0xFFF ∧
    (0x6A42 : Word).toNat = (s.readByte s.pc.toNat).toNat * 256 + (s.readByte (s.pc.toNat + 1)).toNat ∧
    decodeWord 0x6A42 = .ok (.ldByte 0xA 0x42) ∧ ∃ u, exec (.ldByte 0xA 0x42) s = .next u ∧ u.Running :=
  ⟨rfl, by decide, by decide, by decide, _, rfl, rfl⟩
theorem witness_StepRunsTheDecodedInstruction_raising :
    let s := (State.reset.setSp 16).withFetchWord 16 0x2300
    s.Running ∧ s.pc.toNat + 1 ≤ 0xFFF ∧
    (0x2300 : Word).toNat = (s.readByte s.pc.toNat).toNat * 256 + (s.readByte (s.pc.toNat + 1)).toNat ∧
    decodeWord 0x2300 = .ok (.call 0x300) ∧ ∃ u, exec (.call 0x300) s = .next u ∧ u.status = .halted .stackOverflow :=
  ⟨rfl, by decide, by decide, by decide, _, rfl, rfl⟩
theorem witness_StepWithoutInstructionHalts_fetch :
    (State.reset.setPc 0xFFF).Running ∧ 0xFFF ≤ (State.reset.setPc 0xFFF).pc.toNat := ⟨rfl, by decide⟩
theorem witness_StepWithoutInstructionHalts_word :
    let s := State.reset.setPc 0xFFE
    s.Running ∧ s.pc.toNat < 0xFFF ∧
    (0 : Word).toNat = (s.readByte s.pc.toNat).toNat * 256 + (s.readByte (s.pc.toNat + 1)).toNat ∧
    legalWord 0 = false := ⟨rfl, by decide, by decide, by decide⟩
theorem witness_HaltedRunStaysAsItIs : (State.reset.raise .loadFailure).status = .halted .loadFailure := rfl
theorem witness_RaisingStepChangesOnlyTheStatus : State.reset.Running ∧
    ∃ t, step State.reset = .next t ∧ t.status = .halted (.unrecognizedInstruction 0) := ⟨rfl, _, rfl, by decide⟩
theorem witness_ConditionsAnInstructionCanRaise_stack :
    (∃ t, exec (.call 0x300) (State.reset.setSp 16) = .next t ∧ t.status = .halted .stackOverflow) ∧
    (∃ t, exec .ret State.reset = .next t ∧ t.status = .halted .stackUnderflow) := ⟨⟨_, rfl, rfl⟩, ⟨_, rfl, rfl⟩⟩
theorem witness_ConditionsAnInstructionCanRaise_values :
    (∃ t, exec (.loadRegs 15) (State.reset.setI 0xFF1) = .next t ∧ t.status = .halted (.addressOutOfRange 4096)) ∧
    (∃ t, exec (.skp 5) (withRegs [(5, 16)]) = .next t ∧ t.status = .halted (.keyIndexOutOfRange 16)) ∧
    (∃ t, exec (.ldF 5) (withRegs [(5, 16)]) = .next t ∧ t.status = .halted (.fontDigitOutOfRange 16)) :=
  ⟨⟨_, rfl, rfl⟩, ⟨_, rfl, rfl⟩, ⟨_, rfl, rfl⟩⟩
theorem witness_InstructionsChangeOnlyTheirFields :
    ∃ t, exec .cls State.reset = .next t ∧ t.status = State.reset.status := ⟨_, rfl, rfl⟩
theorem witness_InstructionsReadAndWriteOnlyTheirRegisters :
    (1 : Reg) ∉ regsRead (.ldReg 1 2) ∧ ∃ t, exec (.ldReg 1 2) State.reset = .next t := ⟨by decide, _, rfl⟩
theorem witness_OnlyTwoInstructionsWriteMemory : (∃ t, step State.reset = .next t) ∧
    ∀ x, State.reset.fetchInstr ≠ .ok (.ldBcd x) ∧ State.reset.fetchInstr ≠ .ok (.storeRegs x) := ⟨⟨_, rfl⟩, by decide⟩
theorem witness_SoundAndDirtyAreNotRead : ∃ t, step (withWord 0x6A42) = .next t := ⟨_, rfl⟩
theorem witness_StaleStackEntriesAreNotRead :
    (((withWord 0x2300).setSp 15).sp.val ≤ (15 : Fin 16).val ∧ ∃ t, step ((withWord 0x2300).setSp 15) = .next t) :=
  ⟨by decide, _, rfl⟩

/-- A sprite of one byte, its leftmost bit set, at the last address; the coordinates are 0. -/
def withSprite : State := (State.reset.setI 0xFFF).storeBytes 0xFFF [0x80]

/-- The leftmost bit of that sprite, drawn at 0, 0, falls on the pixel (0, 0), whatever DRAW_EDGE is. -/
theorem withSprite_touches (f : Frame) : DrawTouches (withSprite.setFb f) 0 1 1 0 0 := by
  have hb : (withSprite.readByte (withSprite.i.toNat + 0)).getLsbD (7 - 0) = true := by decide
  refine ⟨0, 0, by decide, by decide, hb, ?_⟩
  show DrawnAt Config.params.drawEdge 0 0 0 0 0 0
  cases Config.params.drawEdge <;> exact ⟨rfl, rfl⟩
theorem witness_DrwDrawsTheSprite_set : (∀ k, k < (1 : Fin 16).val → withSprite.i.toNat + k < 4096) ∧
    ∃ px py, DrawTouches (withSprite.setFb (blankFrame.flip 0 0)) 0 1 1 px py ∧ (blankFrame.flip 0 0).get px py = true :=
  ⟨by decide, 0, 0, withSprite_touches _, by decide⟩
theorem witness_DrwDrawsTheSprite_no_rows : (∀ k, k < (0 : Fin 16).val → (State.reset.setI 0xFFFF).i.toNat + k < 4096) ∧
    ¬ ∃ px py, DrawTouches (State.reset.setI 0xFFFF) 0 1 0 px py ∧ (State.reset.setI 0xFFFF).fb.get px py = true :=
  ⟨by decide, fun ⟨_, _, ⟨_, _, h, _⟩, _⟩ => absurd h (Nat.not_lt_zero _)⟩
theorem witness_DrawingTwiceRestoresTheScreen_unset : (0 : Reg) ≠ regVF ∧ (1 : Reg) ≠ regVF ∧
    (∀ k, k < (1 : Fin 16).val → withSprite.i.toNat + k < 4096) ∧
    ∃ px py, DrawTouches (withSprite.setFb blankFrame) 0 1 1 px py ∧ blankFrame.get px py = false :=
  ⟨by decide, by decide, by decide, 0, 0, withSprite_touches _, by decide⟩
theorem witness_DrawingTwiceRestoresTheScreen_no_rows : (14 : Reg) ≠ regVF ∧
    (∀ k, k < (0 : Fin 16).val → State.reset.i.toNat + k < 4096) ∧
    ¬ ∃ px py, DrawTouches State.reset 14 14 0 px py ∧ State.reset.fb.get px py = false :=
  ⟨by decide, by decide, fun ⟨_, _, ⟨_, _, h, _⟩, _⟩ => absurd h (Nat.not_lt_zero _)⟩
theorem witness_JpSetsThePc : fieldClass 0x1FFF = 0x1 := by decide
theorem witness_SelfJumpRunsForEver : (withWord 0x1200).Running ∧ (withWord 0x1200).fetchInstr = .ok (.jp 0x200) ∧
    (withWord 0x1200).pc.toNat = (0x200 : Imm12).toNat := ⟨rfl, by decide, by decide⟩
theorem witness_CallPushesAndJumps : (State.reset.setSp 15).sp.val < 16 ∧ (State.reset.setSp 16).sp.val = 16 := by decide
theorem witness_RetPopsThePc : 0 < (State.reset.setSp 1).sp.val ∧ State.reset.sp.val = 0 := by decide
theorem witness_ReturnGoesBackToTheCall : (State.reset.setSp 15).sp.val < 16 ∧
    ∃ t u : State, exec (.call 0x300) (State.reset.setSp 15) = .next t ∧ u.stack = t.stack ∧ u.sp = t.sp :=
  ⟨by decide, _, _, rfl, rfl, rfl⟩
theorem witness_RegisterSkips : fieldClass 0x3142 = 0x3 ∧ fieldClass 0x4142 = 0x4 ∧ fieldClass 0x5120 = 0x5 ∧
    fieldN 0x5120 = 0 ∧ fieldClass 0x5121 = 0x5 ∧ fieldN 0x5121 ≠ 0 ∧ fieldClass 0x9120 = 0x9 ∧ fieldN 0x9120 = 0 ∧
    fieldClass 0x912F = 0x9 ∧ fieldN 0x912F ≠ 0 := by decide
theorem witness_LdByteLoads : fieldClass 0x6A42 = 0x6 := by decide
theorem witness_LdRegCopies : fieldClass 0x8120 = 0x8 ∧ fieldN 0x8120 = 0x0 := by decide
theorem witness_AddRegCarries : fieldClass 0x8E14 = 0x8 ∧ fieldN 0x8E14 = 0x4 ∧ fieldX 0x8E14 ≠ regVF := by decide
theorem witness_SubtractionsBorrow : (14 : Reg) ≠ regVF := by decide
theorem witness_ShiftsByOneBit : (0 : Reg) ≠ regVF := by decide
theorem witness_LdILoadsAnAddress : fieldClass 0xA123 = 0xA := by decide
theorem witness_LdFPointsAtTheGlyph :
    ((withRegs [(4, 15)]).reg 4).toNat ≤ 15 ∧ 15 < ((withRegs [(4, 16)]).reg 4).toNat := by decide
theorem witness_LdBcdStoresTheDigits : (State.reset.setI 0xFFD).Canonical ∧ (State.reset.setI 0xFFD).i.toNat + 2 < 4096 :=
  ⟨rfl, by decide⟩
theorem witness_StoreRegsStoresV0ToVx :
    (State.reset.setI 0xFF0).Canonical ∧ (State.reset.setI 0xFF0).i.toNat + (15 : Reg).val < 4096 ∧ (15 : Reg) ≤ 15 :=
  ⟨rfl, by decide, by decide⟩
theorem witness_LoadRegsLoadsV0ToVx : (State.reset.setI 0xFFF).i.toNat + (0 : Reg).val < 4096 := by decide
theorem witness_MemoryInstructionsTrapPastTheEnd : 4096 ≤ 4096 ∧ (State.reset.setI 0xFFF).i.toNat ≤ 4096 ∧
    4096 < (State.reset.setI 0xFFF).i.toNat + bytesUsed (.drw 0 1 2) ∧
    ∀ b, (State.reset.setI 0xFFF).i.toNat ≤ b → b < (State.reset.setI 0xFFF).i.toNat + bytesUsed (.drw 0 1 2) →
      4096 ≤ b → 4096 ≤ b :=
  ⟨by decide, by decide, by decide, fun _ _ _ h => h⟩
theorem witness_MemoryInstructionsTrapPastTheEnd_last : 4096 ≤ 65535 ∧ (State.reset.setI 0xFFFF).i.toNat ≤ 65535 ∧
    65535 < (State.reset.setI 0xFFFF).i.toNat + bytesUsed (.ldBcd 0) ∧
    ∀ b, (State.reset.setI 0xFFFF).i.toNat ≤ b → b < (State.reset.setI 0xFFFF).i.toNat + bytesUsed (.ldBcd 0) →
      4096 ≤ b → 65535 ≤ b :=
  ⟨by decide, by decide, by decide, fun _ h _ _ => h⟩
theorem witness_StoreIsSeenByTheNextFetch : (State.reset.setI 0xFFE).Canonical ∧ 1 ≤ (1 : Reg).val ∧
    (State.reset.setI 0xFFE).i.toNat + (1 : Reg).val < 4096 ∧ ∃ t u : State, exec (.storeRegs 1) (State.reset.setI 0xFFE) = .next t ∧
      u.mem = t.mem ∧ u.pc = (State.reset.setI 0xFFE).i :=
  ⟨rfl, by decide, by decide, _,
    ((State.reset.setI 0xFFE).storeBytes 0xFFE ((State.reset.setI 0xFFE).regsUpTo 1)).setPc 0xFFE, rfl, rfl, rfl⟩
theorem witness_GlyphsLieWhereFx29Points :
    ((withRegs [(4, 15)]).reg 4).toNat ≤ 15 ∧ 4 < 5 ∧ (withRegs [(4, 15)]).mem = State.reset.mem :=
  ⟨by decide, by decide, rfl⟩
theorem witness_KeySkips : ((withRegs [(5, 15)]).reg 5).toNat < 16 ∧ 15 < ((withRegs [(5, 16)]).reg 5).toNat := by decide
theorem witness_KeyWaitCompletesOnAKey : fieldClass 0xF30A = 0xF ∧ fieldNn 0xF30A = 0x0A ∧
    (∀ k : Fin 16, State.reset.key[k.val] = false) ∧ ∃ k : Fin 16, (withKey 15 State.reset).key[k.val] = true :=
  ⟨by decide, by decide, by decide, 15, by decide⟩
theorem witness_KeyWaitBlocksWithoutAKey : (withWord 0xF30A).Running ∧ (withWord 0xF30A).fetchInstr = .ok (.ldVxK 3) ∧
    ∀ j : Fin 16, (withWord 0xF30A).key[j.val] = false := ⟨rfl, by decide, by decide⟩
theorem witness_TimerInstructions_words : fieldClass 0xF207 = 0xF ∧ fieldNn 0xF207 = 0x07 ∧ fieldClass 0xF115 = 0xF ∧
    fieldNn 0xF115 = 0x15 ∧ fieldClass 0xF118 = 0xF ∧ fieldNn 0xF118 = 0x18 := by decide
theorem witness_TimerInstructions_steps : (withWord 0xF207).Running ∧ (withWord 0xF207).fetchInstr = .ok (.ldVxDt 2) ∧
    (withWord 0xF115).Running ∧ (withWord 0xF115).fetchInstr = .ok (.ldDtVx 1) ∧
    (withWord 0xF118).Running ∧ (withWord 0xF118).fetchInstr = .ok (.ldStVx 1) :=
  ⟨rfl, by decide, rfl, by decide, rfl, by decide⟩
theorem witness_TickCountsEachTimerDown : 0 < (State.reset.setDelay 1).delay.toNat ∧ State.reset.delay.toNat = 0 ∧
    0 < (State.reset.setSound 255).sound.toNat ∧ State.reset.sound.toNat = 0 := by decide
theorem witness_TickCountsEachTimerDown_step : (∃ t, step (withWord 0xF118) = .next t) ∧
    (withWord 0xF118).delay.toNat = 0 ∧ (∀ x, (withWord 0xF118).fetchInstr ≠ .ok (.ldDtVx x)) ∧
    (∃ t, step (withWord 0xF115) = .next t) ∧ (withWord 0xF115).sound.toNat = 0 ∧
    ∀ x, (withWord 0xF115).fetchInstr ≠ .ok (.ldStVx x) :=
  ⟨⟨_, rfl⟩, rfl, by decide, ⟨_, rfl⟩, rfl, by decide⟩
theorem witness_PolicyDecidesTheTick : (withWord 0xF30A).Running ∧ (withWord 0xF30A).fetchInstr = .ok (.ldVxK 3) ∧
    (∀ x, Instr.ldVxK 3 ≠ .ldDtVx x ∧ Instr.ldVxK 3 ≠ .ldStVx x) ∧
    ∃ t, step (withWord 0xF30A) = .next t ∧ t.Running := ⟨rfl, by decide, by decide, _, rfl, rfl⟩
theorem witness_ResetLeavesTheSpecsState : (List.replicate 3584 (1 : Byte)).length ≤ 3584 ∧
    3583 < (List.replicate 3584 (1 : Byte)).length := by rw [List.length_replicate]; exact ⟨by decide, by decide⟩
/-- With the empty image, the last address lies outside the image and, whatever FONT_BASE is, outside the font table. -/
theorem witness_ResetLeavesTheSpecsState_rest : ([] : List Byte).length ≤ 3584 ∧ 0x200 + ([] : List Byte).length ≤ 4095 ∧
    Config.params.fontBase.val + 80 ≤ 4095 :=
  ⟨by decide, by decide, by have := Config.params.fontBase.isLt; omega⟩
theorem witness_ResetUnreadableOrTooLong : 3584 < (List.replicate 3585 (0 : Byte)).length := by
  rw [List.length_replicate]; decide
theorem witness_SetKeySetsOneKey : 15 < 16 ∧ 16 ≤ 16 := by decide
theorem witness_OnlyResetLeavesAHaltedState : (State.reset.raise .stackUnderflow).status = .halted .stackUnderflow ∧
    (∀ image, Operation.setKey 15 true ≠ .reset image) ∧
    ∃ t, (Operation.setKey 15 true).run (State.reset.raise .stackUnderflow) = .next t :=
  ⟨rfl, fun _ => by simp, _, rfl⟩
theorem witness_EqualMemoriesAreEqualData : Memory.wf [(0x200, 1), (0xFFF, 2)] = true := by decide
theorem witness_StepKeepsMemoryCanonical : ((withWord 0xF033).setI 0x300).Canonical ∧
    ∃ t, step ((withWord 0xF033).setI 0x300) = .next t := ⟨by unfold State.Canonical; decide, _, rfl⟩
theorem witness_StepKeepsThePcBounded :
    (withWord 0xBFFF).Bounded ∧ ∃ t, step (withWord 0xBFFF) = .next t := ⟨by unfold State.Bounded; decide, _, rfl⟩
theorem witness_ReachableStatesMeetTheInvariants : Reachable State.reset := .reset (draws := 0) (image := some []) rfl

end Sys2Proof.Tests
end

/-! PROOFS, 30_encoding.md. A word's recognition by the opcode table and its decoding are both conditions on its four
nibbles: with them written so, the decoder's branches of a class are the table's rows of that class, in order. -/
section
namespace Sys2Proof

/-! ### A word and its nibbles (30_encoding.md R71) -/

/-- Settles O5: the fields' values, in the spec's powers of two. -/
theorem fieldsOfAWord : Obligations.FieldsOfAWord := fun w =>
  ⟨fieldClass_val w, fieldX_val w, fieldY_val w, fieldN_val w, fieldNn_toNat w, fieldNnn_toNat w⟩

theorem word_eq_iff_nibbles (w v : Word) :
    w = v ↔ fieldClass w = fieldClass v ∧ fieldX w = fieldX v ∧ fieldY w = fieldY v ∧ fieldN w = fieldN v := by
  refine ⟨fun h => by simp [h], fun ⟨hc, hx, hy, hn⟩ => BitVec.eq_of_toNat_eq ?_⟩
  simp only [Fin.ext_iff, fieldClass_val, fieldX_val, fieldY_val, fieldN_val] at hc hx hy hn
  omega

theorem fieldNn_eq_iff_nibbles (w : Word) (k : Nat) :
    fieldNn w = BitVec.ofNat 8 k ↔
      fieldY w = ⟨k / 16 % 16, Nat.mod_lt _ (by decide)⟩ ∧ fieldN w = ⟨k % 16, Nat.mod_lt _ (by decide)⟩ := by
  simp only [← BitVec.toNat_inj, fieldNn_toNat, Fin.ext_iff, fieldY_val, fieldN_val, BitVec.toNat_ofNat]
  omega

/-! The nibbles of a masked word are the masked nibbles. -/

@[simp] theorem fieldClass_and (w v : Word) : fieldClass (w &&& v) = fieldClass w &&& fieldClass v := by
  simp [fieldClass, BitVec.extractLsb'_and]

@[simp] theorem fieldX_and (w v : Word) : fieldX (w &&& v) = fieldX w &&& fieldX v := by
  simp [fieldX, BitVec.extractLsb'_and]

@[simp] theorem fieldY_and (w v : Word) : fieldY (w &&& v) = fieldY w &&& fieldY v := by
  simp [fieldY, BitVec.extractLsb'_and]

@[simp] theorem fieldN_and (w v : Word) : fieldN (w &&& v) = fieldN w &&& fieldN v := by
  simp [fieldN, BitVec.extractLsb'_and]

@[simp] theorem nibble_and_fifteen (a : Fin 16) : a &&& 15 = a := by revert a; decide

@[simp] theorem nibble_and_zero (a : Fin 16) : a &&& 0 = 0 := by revert a; decide

/-! The nibbles of a numeral, in a form `simp` evaluates. -/

@[simp] theorem fieldClass_ofNat (k : Nat) :
    fieldClass (BitVec.ofNat 16 k) = ⟨k / 4096 % 16, Nat.mod_lt _ (by decide)⟩ := by
  apply Fin.ext
  simp only [fieldClass_val, BitVec.toNat_ofNat]
  omega

@[simp] theorem fieldX_ofNat (k : Nat) :
    fieldX (BitVec.ofNat 16 k) = ⟨k / 256 % 16, Nat.mod_lt _ (by decide)⟩ := by
  apply Fin.ext
  simp only [fieldX_val, BitVec.toNat_ofNat]
  omega

@[simp] theorem fieldY_ofNat (k : Nat) :
    fieldY (BitVec.ofNat 16 k) = ⟨k / 16 % 16, Nat.mod_lt _ (by decide)⟩ := by
  apply Fin.ext
  simp only [fieldY_val, BitVec.toNat_ofNat]
  omega

@[simp] theorem fieldN_ofNat (k : Nat) :
    fieldN (BitVec.ofNat 16 k) = ⟨k % 16, Nat.mod_lt _ (by decide)⟩ := by
  apply Fin.ext
  simp only [fieldN_val, BitVec.toNat_ofNat]
  omega

/-! ### The opcode table's answer for a word (30_encoding.md R77) -/

/-- A row's mask fixes whole nibbles, so that on the table's rows `simp` turns this into equations of nibbles. -/
@[simp] theorem OpcodeRow.matches_iff_nibbles (name : String) (mask pattern w : Word) :
    (OpcodeRow.mk name mask pattern).matches w = true ↔
      fieldClass w &&& fieldClass mask = fieldClass pattern ∧ fieldX w &&& fieldX mask = fieldX pattern ∧
      fieldY w &&& fieldY mask = fieldY pattern ∧ fieldN w &&& fieldN mask = fieldN pattern := by
  simp [OpcodeRow.matches, word_eq_iff_nibbles (w &&& mask)]

/-- The mnemonic of the first of the rows that recognises the word; the word is rejected when none does. -/
@[simp] def mnemonicIn (w : Word) : List OpcodeRow → Except DecodeError String
  | [] => .error (.unrecognized w)
  | r :: rs => if r.matches w then .ok r.mnemonic else mnemonicIn w rs

theorem mnemonicIn_of_any {w : Word} {rows : List OpcodeRow} (h : rows.any (·.matches w) = true) :
    ∃ r ∈ rows, r.matches w = true ∧ mnemonicIn w rows = .ok r.mnemonic := by
  induction rows with
  | nil => simp at h
  | cons r rs ih =>
    by_cases hr : r.matches w = true
    · exact ⟨r, by simp, hr, by simp [hr]⟩
    · obtain ⟨q, hq, hm, he⟩ := ih (by simpa [hr] using h)
      exact ⟨q, by simp [hq], hm, by simpa [hr] using he⟩

theorem mnemonicIn_of_not_any {w : Word} {rows : List OpcodeRow} (h : rows.any (·.matches w) = false) :
    mnemonicIn w rows = .error (.unrecognized w) := by
  induction rows with
  | nil => rfl
  | cons r rs ih =>
    obtain ⟨hr, hrs⟩ : r.matches w = false ∧ rs.any (·.matches w) = false := by simpa using h
    simpa [hr] using ih hrs

/-! ### The decoder against the table, class by class (30_encoding.md R78) -/

theorem decodeClass8_mnemonic {w : Word} (h : fieldClass w = 8) :
    Instr.mnemonic <$> decodeClass8 w = mnemonicIn w opcodeRows := by
  unfold decodeClass8
  split <;> simp_all [opcodeRows, opcodeRowsLow, opcodeRowsRegister, opcodeRowsHigh, Instr.mnemonic]

theorem decodeClassE_mnemonic {w : Word} (h : fieldClass w = 14) :
    Instr.mnemonic <$> decodeClassE w = mnemonicIn w opcodeRows := by
  simp [decodeClassE, fieldNn_eq_iff_nibbles, apply_ite (Instr.mnemonic <$> ·), Instr.mnemonic, h,
    opcodeRows, opcodeRowsLow, opcodeRowsRegister, opcodeRowsHigh]

theorem decodeClassF_mnemonic {w : Word} (h : fieldClass w = 15) :
    Instr.mnemonic <$> decodeClassF w = mnemonicIn w opcodeRows := by
  simp [decodeClassF, fieldNn_eq_iff_nibbles, apply_ite (Instr.mnemonic <$> ·), Instr.mnemonic, h,
    opcodeRows, opcodeRowsLow, opcodeRowsRegister, opcodeRowsHigh]

/-- The decoder names the instruction the table names, and rejects the words the table rejects. -/
theorem decodeWord_mnemonic (w : Word) : Instr.mnemonic <$> decodeWord w = mnemonicIn w opcodeRows := by
  unfold decodeWord
  split
  case h_9 h => exact decodeClass8_mnemonic h
  case h_15 h => exact decodeClassE_mnemonic h
  case h_16 h => exact decodeClassF_mnemonic h
  case h_17 => omega
  -- In every other class the branch's conditions, if any, are those of the class's rows.
  all_goals
    rename_i h
    simp [word_eq_iff_nibbles w, apply_ite (Instr.mnemonic <$> ·), Instr.mnemonic, h,
      opcodeRows, opcodeRowsLow, opcodeRowsRegister, opcodeRowsHigh]

/-- Settles O3: the decoder's mnemonic is the table's answer, which is a matching row's or the word's rejection. -/
theorem recognisedWordsAreTheTables : Obligations.RecognisedWordsAreTheTables := by
  intro w
  have hw := decodeWord_mnemonic w
  constructor
  · intro hl
    obtain ⟨r, hr, hm, he⟩ := mnemonicIn_of_any hl
    rw [he] at hw
    cases hd : decodeWord w with
    | ok i => exact ⟨i, r, rfl, hr, by simpa [hd] using hw.symm, hm⟩
    | error e => simp [hd] at hw
  · intro hl
    rw [mnemonicIn_of_not_any hl] at hw
    cases hd : decodeWord w with
    | ok i => simp [hd] at hw
    | error e => simpa [hd] using hw

end Sys2Proof
end

/-! PROOFS, 40_display.md. The one word of CLS is read off the opcode table, which the decoder answers for (O3). -/
section
namespace Sys2Proof
open Machine

/-! ### CLS (40_display.md R100) -/

/-- A word that decodes belongs to a row of the opcode table with the instruction's mnemonic (30_encoding.md R77). -/
theorem exists_row_of_decodeWord {w : Word} {i : Instr} (h : decodeWord w = .ok i) :
    ∃ r ∈ opcodeRows, r.mnemonic = i.mnemonic ∧ r.matches w = true := by
  obtain ⟨hlegal, hillegal⟩ := recognisedWordsAreTheTables w
  cases hw : legalWord w with
  | true =>
    obtain ⟨j, r, hj, hr, hm, hmatch⟩ := hlegal hw
    obtain rfl : i = j := by simpa [h] using hj
    exact ⟨r, hr, hm, hmatch⟩
  | false => simpa [h] using hillegal hw

/-- CLS has one row in the opcode table, and its mask leaves no bit free. -/
theorem eq_of_matches_clsRow {r : OpcodeRow} {w : Word} (hr : r ∈ opcodeRows) (hm : r.mnemonic = Instr.cls.mnemonic)
    (hmatch : r.matches w = true) : w = 0x00E0 := by
  have only : ∀ q ∈ opcodeRows, q.mnemonic = Instr.cls.mnemonic → q = ⟨"CLS", 0xFFFF, 0x00E0⟩ := by decide
  rw [only r hr hm] at hmatch
  simpa [word_eq_iff_nibbles w] using hmatch

theorem decodeWord_eq_cls_iff (w : Word) : decodeWord w = .ok .cls ↔ w = 0x00E0 := by
  constructor
  · intro h
    obtain ⟨r, hr, hm, hmatch⟩ := exists_row_of_decodeWord h
    exact eq_of_matches_clsRow hr hm hmatch
  · rintro rfl
    decide

theorem exec_cls (s : State) : exec .cls s = .next ((s.advance.setFb blankFrame).setDirty true) := rfl

theorem cls_onlyChanges (s : State) :
    OnlyChanges [.fb, .dirty, .pc] s ((s.advance.setFb blankFrame).setDirty true) := by
  intro f hf
  cases f with
  | fb | dirty | pc => simp at hf
  | _ => simp [Field.Same]

/-- Settles O18: CLS has one word, and its state is the blank frame with dirty set after the pc's advance. -/
theorem clsClearsTheScreen : Obligations.ClsClearsTheScreen :=
  ⟨decodeWord_eq_cls_iff, fun s => ⟨_, exec_cls s, blankFrame_get, rfl, rfl, cls_onlyChanges s⟩⟩

end Sys2Proof
end

/-! PROOFS, 41_control_flow.md. Each skip advances the pc and then skips on its condition; what such a state holds is
said once, for any condition. -/
section
namespace Sys2Proof
open Machine

/-! ### The words of the register skips (30_encoding.md R78) -/

theorem decodeWord_class3 {w : Word} (h : fieldClass w = 0x3) :
    decodeWord w = .ok (.seByte (fieldX w) (fieldNn w)) := by
  simp [decodeWord, h]

theorem decodeWord_class4 {w : Word} (h : fieldClass w = 0x4) :
    decodeWord w = .ok (.sneByte (fieldX w) (fieldNn w)) := by
  simp [decodeWord, h]

theorem decodeWord_class5 {w : Word} (h : fieldClass w = 0x5) :
    decodeWord w = if fieldN w = 0 then .ok (.seReg (fieldX w) (fieldY w)) else .error (.unrecognized w) := by
  simp [decodeWord, h]

theorem decodeWord_class9 {w : Word} (h : fieldClass w = 0x9) :
    decodeWord w = if fieldN w = 0 then .ok (.sneReg (fieldX w) (fieldY w)) else .error (.unrecognized w) := by
  simp [decodeWord, h]

/-! ### Skips (41_control_flow.md R126) -/

theorem advance_skipIf_pc (s : State) (c : Bool) :
    (s.advance.skipIf c).pc = if c then s.pc + 4 else s.pc + 2 := by
  simp [BitVec.add_assoc]

theorem advance_skipIf_onlyChanges (s : State) (c : Bool) : OnlyChanges [.pc] s (s.advance.skipIf c) := by
  intro f hf
  cases f with
  | pc => simp at hf
  | _ => simp [Field.Same]

theorem exists_next_of_exec_skipIf {i : Instr} {s : State} {c : Bool} (h : exec i s = .next (s.advance.skipIf c)) :
    ∃ t, exec i s = .next t ∧ t.pc = (if c then s.pc + 4 else s.pc + 2) ∧ OnlyChanges [.pc] s t :=
  ⟨_, h, advance_skipIf_pc s c, advance_skipIf_onlyChanges s c⟩

/-! ### The register skips (41_control_flow.md R127 to R130) -/

theorem exec_seByte (x : Reg) (nn : Byte) (s : State) :
    exec (.seByte x nn) s = .next (s.advance.skipIf (s.reg x == nn)) := rfl

theorem exec_sneByte (x : Reg) (nn : Byte) (s : State) :
    exec (.sneByte x nn) s = .next (s.advance.skipIf (s.reg x != nn)) := rfl

theorem exec_seReg (x y : Reg) (s : State) :
    exec (.seReg x y) s = .next (s.advance.skipIf (s.reg x == s.reg y)) := rfl

theorem exec_sneReg (x y : Reg) (s : State) :
    exec (.sneReg x y) s = .next (s.advance.skipIf (s.reg x != s.reg y)) := rfl

/-- Settles O26: the decoder's four classes, and of each skip its one condition; 4xnn and 9xy0 skip on an inequality, which
exchanges the two outcomes. -/
theorem registerSkips : Obligations.RegisterSkips := by
  refine ⟨fun _ => decodeWord_class3, fun _ => decodeWord_class4, fun _ => decodeWord_class5,
    fun _ => decodeWord_class9, fun x y nn s => ⟨?se_byte, ?sne_byte, ?se_reg, ?sne_reg⟩⟩
  case se_byte => simpa only [beq_iff_eq] using exists_next_of_exec_skipIf (exec_seByte x nn s)
  case sne_byte => simpa only [bne_iff_ne, ne_eq, ite_not] using exists_next_of_exec_skipIf (exec_sneByte x nn s)
  case se_reg => simpa only [beq_iff_eq] using exists_next_of_exec_skipIf (exec_seReg x y s)
  case sne_reg => simpa only [bne_iff_ne, ne_eq, ite_not] using exists_next_of_exec_skipIf (exec_sneReg x y s)

end Sys2Proof
end

/-! PROOFS, 42_alu.md. An instruction of the ALU advances the pc and then writes Vx, or Vx and after it VF; what such a
state holds is said once, for any result and flag. -/
section
namespace Sys2Proof
open Machine

/-! ### The words of classes 6 and 8 (30_encoding.md R78) -/

theorem decodeWord_class6 {w : Word} (h : fieldClass w = 0x6) :
    decodeWord w = .ok (.ldByte (fieldX w) (fieldNn w)) := by
  simp [decodeWord, h]

theorem decodeWord_class8 {w : Word} (h : fieldClass w = 0x8) : decodeWord w = decodeClass8 w := by
  simp [decodeWord, h]

theorem decodeWord_ldReg {w : Word} (hc : fieldClass w = 0x8) (hn : fieldN w = 0x0) :
    decodeWord w = .ok (.ldReg (fieldX w) (fieldY w)) := by
  rw [decodeWord_class8 hc]
  simp [decodeClass8, hn]

theorem decodeWord_addReg {w : Word} (hc : fieldClass w = 0x8) (hn : fieldN w = 0x4) :
    decodeWord w = .ok (.addReg (fieldX w) (fieldY w)) := by
  rw [decodeWord_class8 hc]
  simp [decodeClass8, hn]

/-! ### The frame of the pc's advance and of register writes after it -/

theorem Machine.OnlyChanges.advance {fields : List Field} (s : State) (hpc : .pc ∈ fields) :
    OnlyChanges fields s s.advance := by
  intro f hf
  cases f with
  | pc => exact absurd hpc hf
  | _ => simp [Field.Same]

theorem Machine.OnlyChanges.setReg {fields : List Field} {s t : State} (h : OnlyChanges fields s t) (hv : .v ∈ fields)
    (r : Reg) (b : Byte) : OnlyChanges fields s (t.setReg r b) := by
  intro f hf
  cases f with
  | v => exact absurd hv hf
  | _ => exact h _ hf

theorem Machine.RegsKeptBut.advance (regs : List Reg) (s : State) : RegsKeptBut regs s s.advance :=
  fun q _ => State.advance_reg s q

theorem Machine.RegsKeptBut.setReg {regs : List Reg} {s t : State} (h : RegsKeptBut regs s t) {r : Reg} (hr : r ∈ regs)
    (b : Byte) : RegsKeptBut regs s (t.setReg r b) := by
  intro q hq
  have hne : q ≠ r := fun heq => hq (heq ▸ hr)
  rw [State.setReg_reg_other t b hne, h q hq]

/-! ### Instructions that write Vx, or Vx and the flag (42_alu.md R151) -/

theorem exists_next_of_exec_setReg {i : Instr} {s : State} {x : Reg} {b : Byte}
    (h : exec i s = .next (s.advance.setReg x b)) :
    ∃ t, exec i s = .next t ∧ t.reg x = b ∧ t.pc = s.pc + 2 ∧ RegsKeptBut [x] s t ∧ OnlyChanges [.v, .pc] s t :=
  ⟨_, h, State.setReg_reg_same .., rfl, (RegsKeptBut.advance _ s).setReg (by simp) b,
    (OnlyChanges.advance s (by simp)).setReg (by simp) x b⟩

/-- VF is written last, so that the result is read in Vx only where x is not 0xF. -/
theorem exists_next_of_exec_setRegFlag {i : Instr} {s : State} {x : Reg} {b : Byte} {g : Bool}
    (h : exec i s = .next (s.advance.setRegFlag x b g)) :
    ∃ t, exec i s = .next t ∧ (x ≠ regVF → t.reg x = b) ∧ t.reg regVF = boolByte g ∧ t.pc = s.pc + 2 ∧
      RegsKeptBut [x, regVF] s t ∧ OnlyChanges [.v, .pc] s t := by
  refine ⟨_, h, fun hx => ?result, State.setRegFlag_reg_vf .., rfl, ?regs, ?fields⟩
  case result => rw [State.setRegFlag_reg, if_neg hx, if_pos rfl]
  case regs => exact ((RegsKeptBut.advance _ s).setReg (by simp) b).setReg (by simp) (boolByte g)
  case fields => exact ((OnlyChanges.advance s (by simp)).setReg (by simp) x b).setReg (by simp) regVF (boolByte g)

/-! ### The loads 6xnn and 8xy0 (42_alu.md R152, R154) -/

theorem exec_ldByte (x : Reg) (nn : Byte) (s : State) :
    exec (.ldByte x nn) s = .next (s.advance.setReg x nn) := rfl

theorem exec_ldReg (x y : Reg) (s : State) :
    exec (.ldReg x y) s = .next (s.advance.setReg x (s.reg y)) := rfl

/-- Settles O28: the decoder's class 6, and a write of the immediate to Vx. -/
theorem ldByteLoads : Obligations.LdByteLoads :=
  ⟨fun _ => decodeWord_class6, fun x nn s => exists_next_of_exec_setReg (exec_ldByte x nn s)⟩

/-- Settles O30: the decoder's class 8 with n 0, and a write of Vy to Vx, read before the write. -/
theorem ldRegCopies : Obligations.LdRegCopies :=
  ⟨fun _ => decodeWord_ldReg, fun x y s => exists_next_of_exec_setReg (exec_ldReg x y s)⟩

/-! ### The sum with carry, 8xy4 (42_alu.md R158) -/

theorem exec_addReg (x y : Reg) (s : State) :
    exec (.addReg x y) s =
      .next (s.advance.setRegFlag x (s.reg x + s.reg y) (carryOut (s.reg x) (s.reg y))) := rfl

theorem boolByte_carryOut (a b : Byte) :
    boolByte (carryOut a b) = if 255 < a.toNat + b.toNat then 1 else 0 := by
  simp [boolByte, carryOut_iff]

/-- Settles O32: the decoder's class 8 with n 4, and a write of the wrapped sum to Vx and after it of the carry to VF. -/
theorem addRegCarries : Obligations.AddRegCarries := by
  refine ⟨fun _ => decodeWord_addReg, fun x y s => ?_⟩
  obtain ⟨t, ht, hx, hvf, hpc, hregs, hfields⟩ := exists_next_of_exec_setRegFlag (exec_addReg x y s)
  refine ⟨t, ht, fun hne => ?sum, ?carry, hpc, hregs, hfields⟩
  case sum => rw [hx hne, BitVec.toNat_add]
  case carry => rw [hvf, boolByte_carryOut]

end Sys2Proof
end

/-! PROOFS, 43_index_memory.md. Annn advances the pc and then writes I; the frame of a write to I is said once, for any
value. -/
section
namespace Sys2Proof
open Machine

/-! ### The words of class A (30_encoding.md R78) -/

theorem decodeWord_classA {w : Word} (h : fieldClass w = 0xA) : decodeWord w = .ok (.ldI (fieldNnn w)) := by
  simp [decodeWord, h]

/-! ### A write of I after the pc's advance -/

theorem Machine.OnlyChanges.setI {fields : List Field} {s t : State} (h : OnlyChanges fields s t) (hi : .i ∈ fields)
    (w : Word) : OnlyChanges fields s (t.setI w) := by
  intro f hf
  cases f with
  | i => exact absurd hi hf
  | _ => exact h _ hf

theorem exists_next_of_exec_setI {i : Instr} {s : State} {w : Word} (h : exec i s = .next (s.advance.setI w)) :
    ∃ t, exec i s = .next t ∧ t.i = w ∧ t.pc = s.pc + 2 ∧ OnlyChanges [.i, .pc] s t :=
  ⟨_, h, State.setI_i .., rfl, (OnlyChanges.advance s (by simp)).setI (by simp) w⟩

/-! ### The load Annn (43_index_memory.md R181) -/

theorem exec_ldI (nnn : Imm12) (s : State) : exec (.ldI nnn) s = .next (s.advance.setI (addressOf nnn)) := rfl

/-- Settles O36: the decoder's class A, and a write to I of the immediate, which the extension to 16 bits keeps. -/
theorem ldILoadsAnAddress : Obligations.LdILoadsAnAddress := by
  refine ⟨fun _ => decodeWord_classA, fun nnn s => ?_⟩
  obtain ⟨t, ht, hi, hpc, hfields⟩ := exists_next_of_exec_setI (exec_ldI nnn s)
  refine ⟨t, ht, ?address, hpc, hfields⟩
  case address => rw [hi, addressOf_toNat]

end Sys2Proof
end

/-! PROOFS, 45_timers.md. Each timer instruction advances the pc and then copies one byte between Vx and a timer; the tick
that ends its step is the policy's countdown of the timer so left. -/
section
namespace Sys2Proof
open Machine

/-! ### The words of the timer instructions (30_encoding.md R78) -/

theorem decodeWord_classF {w : Word} (h : fieldClass w = 0xF) : decodeWord w = decodeClassF w := by
  simp [decodeWord, h]

theorem decodeWord_ldVxDt {w : Word} (hc : fieldClass w = 0xF) (hn : fieldNn w = 0x07) :
    decodeWord w = .ok (.ldVxDt (fieldX w)) := by
  rw [decodeWord_classF hc]
  simp [decodeClassF, hn]

theorem decodeWord_ldDtVx {w : Word} (hc : fieldClass w = 0xF) (hn : fieldNn w = 0x15) :
    decodeWord w = .ok (.ldDtVx (fieldX w)) := by
  rw [decodeWord_classF hc]
  simp [decodeClassF, hn]

theorem decodeWord_ldStVx {w : Word} (hc : fieldClass w = 0xF) (hn : fieldNn w = 0x18) :
    decodeWord w = .ok (.ldStVx (fieldX w)) := by
  rw [decodeWord_classF hc]
  simp [decodeClassF, hn]

/-! ### A write of a timer after the pc's advance -/

theorem Machine.OnlyChanges.setDelay {fields : List Field} {s t : State} (h : OnlyChanges fields s t)
    (hd : .delay ∈ fields) (b : Byte) : OnlyChanges fields s (t.setDelay b) := by
  intro f hf
  cases f with
  | delay => exact absurd hd hf
  | _ => exact h _ hf

theorem Machine.OnlyChanges.setSound {fields : List Field} {s t : State} (h : OnlyChanges fields s t)
    (hs : .sound ∈ fields) (b : Byte) : OnlyChanges fields s (t.setSound b) := by
  intro f hf
  cases f with
  | sound => exact absurd hs hf
  | _ => exact h _ hf

theorem exists_next_of_exec_setDelay {i : Instr} {s : State} {b : Byte} (h : exec i s = .next (s.advance.setDelay b)) :
    ∃ t, exec i s = .next t ∧ t.delay = b ∧ t.pc = s.pc + 2 ∧ OnlyChanges [.delay, .pc] s t :=
  ⟨_, h, State.setDelay_delay .., rfl, (OnlyChanges.advance s (by simp)).setDelay (by simp) b⟩

theorem exists_next_of_exec_setSound {i : Instr} {s : State} {b : Byte} (h : exec i s = .next (s.advance.setSound b)) :
    ∃ t, exec i s = .next t ∧ t.sound = b ∧ t.pc = s.pc + 2 ∧ OnlyChanges [.sound, .pc] s t :=
  ⟨_, h, State.setSound_sound .., rfl, (OnlyChanges.advance s (by simp)).setSound (by simp) b⟩

/-! ### A completed step and its tick (30_encoding.md R90, 60_exceptions.md R241) -/

theorem step_eq_policyTick {i : Instr} {s u : State} (hs : s.Running) (hf : s.fetchInstr = .ok i)
    (he : exec i s = .next u) (hu : u.Running) : step s = .next (u.policyTick Config.params.timerPolicy) := by
  rw [State.Running] at hs
  simp [step, hs, hf, he, finishStep, State.endStep_running hu]

theorem policyCountDown_toNat (p : TimerPolicy) (t : Byte) :
    (policyCountDown p t).toNat = match p with
      | .perStep => t.toNat - 1
      | .externalTick => t.toNat := by
  cases p with
  | perStep => rw [policyCountDown_perStep, countDown_toNat]
  | externalTick => rw [policyCountDown_externalTick]

/-! ### Fx07, Fx15 and Fx18 (45_timers.md R210 to R212) -/

theorem exec_ldVxDt (x : Reg) (s : State) : exec (.ldVxDt x) s = .next (s.advance.setReg x s.delay) := rfl

theorem exec_ldDtVx (x : Reg) (s : State) : exec (.ldDtVx x) s = .next (s.advance.setDelay (s.reg x)) := rfl

theorem exec_ldStVx (x : Reg) (s : State) : exec (.ldStVx x) s = .next (s.advance.setSound (s.reg x)) := rfl

/-- Settles O48: the decoder's three words, the copy each makes, and of each step the countdown of the timer as the copy
left it. The copies raise nothing, so each state is running where s is, and the tick follows. -/
theorem timerInstructions : Obligations.TimerInstructions := by
  refine ⟨fun w hc => ⟨decodeWord_ldVxDt hc, decodeWord_ldDtVx hc, decodeWord_ldStVx hc⟩,
    fun x s => ⟨exists_next_of_exec_setReg (exec_ldVxDt x s), exists_next_of_exec_setDelay (exec_ldDtVx x s),
      exists_next_of_exec_setSound (exec_ldStVx x s), fun hs hf => ?step_read, fun hs hf => ?step_delay,
      fun hs hf => ?step_sound⟩⟩
  case step_read =>
    exact ⟨_, step_eq_policyTick hs hf (exec_ldVxDt x s) hs, by simp, policyCountDown_toNat _ s.delay⟩
  case step_delay =>
    exact ⟨_, step_eq_policyTick hs hf (exec_ldDtVx x s) hs, policyCountDown_toNat _ (s.reg x)⟩
  case step_sound =>
    exact ⟨_, step_eq_policyTick hs hf (exec_ldStVx x s) hs, policyCountDown_toNat _ (s.reg x)⟩

end Sys2Proof
end

/-! PROOFS, 60_exceptions.md. No instruction but Fx15 writes the delay timer and none but Fx18 the sound timer, so that in
every other step a timer is only counted down; the host's calls that touch the timers or the dirty flag are writes of those
fields. -/
section
namespace Sys2Proof
open Machine

/-! ### Frames that start at the state itself -/

theorem Machine.OnlyChanges.refl (fields : List Field) (s : State) : OnlyChanges fields s s := by
  intro f _
  cases f <;> simp [Field.Same]

theorem Machine.OnlyChanges.setDirty {fields : List Field} {s t : State} (h : OnlyChanges fields s t)
    (hd : .dirty ∈ fields) (b : Bool) : OnlyChanges fields s (t.setDirty b) := by
  intro f hf
  cases f with
  | dirty => exact absurd hd hf
  | _ => exact h _ hf

/-! ### The framebuffer query and ClearDirty (60_exceptions.md R247, R248) -/

/-- Settles O54: the queries answer fields of the state, and ClearDirty is a write of the dirty flag. -/
theorem queriesAndClearDirty : Obligations.QueriesAndClearDirty := fun s =>
  ⟨rfl, rfl, rfl, s.setDirty false, rfl, s.setDirty_dirty false, (OnlyChanges.refl _ s).setDirty (by simp) false⟩

/-! ### The tick (60_exceptions.md R240) -/

theorem tick_onlyChanges (s : State) : OnlyChanges [.delay, .sound] s s.tick :=
  ((OnlyChanges.refl _ s).setDelay (by simp) _).setSound (by simp) _

/-! ### Which instructions write a timer (60_exceptions.md R240) -/

theorem exec_keeps_timers {i : Instr} {s t : State} (h : exec i s = .next t) (hd : ∀ x, i ≠ .ldDtVx x)
    (hs : ∀ x, i ≠ .ldStVx x) : t.delay = s.delay ∧ t.sound = s.sound := by
  cases i
  case ldDtVx x => exact absurd rfl (hd x)
  case ldStVx x => exact absurd rfl (hs x)
  case ret =>
    simp only [exec, execRet] at h
    split at h
    · cases h; simp
    · next w u hpop =>
      obtain ⟨_, _, rfl⟩ := State.pop_eq_some hpop
      cases h; simp
  case call =>
    simp only [exec, execCall] at h
    split at h
    · cases h; simp
    · next u hpush =>
      obtain ⟨_, rfl⟩ := State.push_eq_some hpush
      cases h; simp
  -- Each of these has two outcomes: it raises, or for Fx0A waits; or else it takes effect.
  case drw | skp | sknp | ldVxK | ldF | ldBcd | storeRegs | loadRegs =>
    simp only [exec, execDrw, execSkp, execSknp, execLdVxK, execLdF, execLdBcd, execStoreRegs, execLoadRegs] at h
    split at h <;> cases h <;> simp
  -- Every other instruction has one outcome.
  all_goals
    cases h
    exact ⟨rfl, rfl⟩

theorem exec_keeps_delay {i : Instr} {s t : State} (h : exec i s = .next t) (hd : ∀ x, i ≠ .ldDtVx x) :
    t.delay = s.delay := by
  by_cases hs : ∃ x, i = .ldStVx x
  · obtain ⟨x, rfl⟩ := hs
    rw [exec_ldStVx] at h
    cases h
    simp
  · exact (exec_keeps_timers h hd (not_exists.mp hs)).1

theorem exec_keeps_sound {i : Instr} {s t : State} (h : exec i s = .next t) (hs : ∀ x, i ≠ .ldStVx x) :
    t.sound = s.sound := by
  by_cases hd : ∃ x, i = .ldDtVx x
  · obtain ⟨x, rfl⟩ := hd
    rw [exec_ldDtVx] at h
    cases h
    simp
  · exact (exec_keeps_timers h (not_exists.mp hd) hs).2

/-! ### A step only counts a timer down (60_exceptions.md R240, R241) -/

theorem policyCountDown_le (p : TimerPolicy) (t : Byte) : (policyCountDown p t).toNat ≤ t.toNat := by
  rw [policyCountDown_toNat]
  cases p with
  | perStep => exact Nat.sub_le _ 1
  | externalTick => exact Nat.le_refl _

theorem endStep_timers_le (s : State) :
    s.endStep.delay.toNat ≤ s.delay.toNat ∧ s.endStep.sound.toNat ≤ s.sound.toNat := by
  cases h : s.status with
  | running =>
    rw [State.endStep_running h]
    exact ⟨policyCountDown_le _ s.delay, policyCountDown_le _ s.sound⟩
  | halted c => simp [State.endStep_halted h]

theorem step_timers_le {s t : State} (h : step s = .next t) :
    ((∀ x, s.fetchInstr ≠ .ok (.ldDtVx x)) → t.delay.toNat ≤ s.delay.toNat) ∧
    ((∀ x, s.fetchInstr ≠ .ok (.ldStVx x)) → t.sound.toNat ≤ s.sound.toNat) := by
  obtain ⟨_, rfl⟩ | ⟨_, c, _, rfl⟩ | ⟨_, i, u, hf, hu, rfl⟩ := step_cases h
  · simp
  · simp
  · obtain ⟨hdelay, hsound⟩ := endStep_timers_le u
    refine ⟨fun hd => ?delay, fun hs => ?sound⟩
    case delay => rwa [exec_keeps_delay hu fun x hi => hd x (hi ▸ hf)] at hdelay
    case sound => rwa [exec_keeps_sound hu fun x hi => hs x (hi ▸ hf)] at hsound

/-- Settles O49: a tick is the countdown of each timer, the truncated difference with one; and a timer that a step does not
raise stays at 0. -/
theorem tickCountsEachTimerDown : Obligations.TickCountsEachTimerDown := by
  refine ⟨fun s => ?tick, fun s t h => ?step⟩
  case tick =>
    have hdelay : s.tick.delay.toNat = s.delay.toNat - 1 := countDown_toNat s.delay
    have hsound : s.tick.sound.toNat = s.sound.toNat - 1 := countDown_toNat s.sound
    exact ⟨fun _ => hdelay, fun h0 => by rw [hdelay, h0], fun _ => hsound, fun h0 => by rw [hsound, h0],
      tick_onlyChanges s⟩
  case step =>
    obtain ⟨hdelay, hsound⟩ := step_timers_le h
    exact ⟨fun h0 hx => Nat.eq_zero_of_le_zero (h0 ▸ hdelay hx), fun h0 hx => Nat.eq_zero_of_le_zero (h0 ▸ hsound hx)⟩

end Sys2Proof
end

/-! PROOFS, 30_encoding.md, the round trips. A packed word's fields are what was packed, and the fields of a word,
packed again, are the word; the decoder and the encoder name the same fields. -/
section
namespace Sys2Proof

/-! ### Decoding an encoded instruction (30_encoding.md R76, R78) -/

/-- The class of a packed word selects the decoder's branch, and the word's fields are the operands. -/
theorem decodeWord_encodeWord (i : Instr) : decodeWord (encodeWord i) = .ok i := by
  cases i with
  | cls | ret => decide
  | ldReg | orReg | andReg | xorReg | addReg | subReg | shr | subnReg | shl =>
    simp [encodeWord, decodeWord, decodeClass8]
  | skp | sknp => simp [encodeWord, decodeWord, decodeClassE]
  | ldVxDt | ldVxK | ldDtVx | ldStVx | addI | ldF | ldBcd | storeRegs | loadRegs =>
    simp [encodeWord, decodeWord, decodeClassF]
  | _ => simp [encodeWord, decodeWord]

/-- Settles O1: the decoder on an encoded word, and on its two bytes whatever follows them. -/
theorem decodeOfEncodeIsTheInstruction : Obligations.DecodeOfEncodeIsTheInstruction := by
  intro i rest
  refine ⟨decodeWord_encodeWord i, ?bytes⟩
  case bytes => rw [encode, decodeBytes_bytesOfWord, decodeWord_encodeWord]

/-! ### A word's fields, packed again (30_encoding.md R71, R76) -/

theorem packA_fields {w : Word} {c : BitVec 4} (h : fieldClass w = c.toFin) : packA c (fieldNnn w) = w := by
  rw [Fin.ext_iff, fieldClass_val, BitVec.val_toFin] at h
  apply BitVec.eq_of_toNat_eq
  rw [packA_toNat, fieldNnn_toNat]
  omega

theorem packXB_fields {w : Word} {c : BitVec 4} (h : fieldClass w = c.toFin) :
    packXB c (fieldX w) (fieldNn w) = w := by
  rw [Fin.ext_iff, fieldClass_val, BitVec.val_toFin] at h
  apply BitVec.eq_of_toNat_eq
  rw [packXB_toNat, fieldX_val, fieldNn_toNat]
  omega

theorem packXYN_fields {w : Word} {c : BitVec 4} (h : fieldClass w = c.toFin) :
    packXYN c (fieldX w) (fieldY w) (fieldN w) = w := by
  rw [Fin.ext_iff, fieldClass_val, BitVec.val_toFin] at h
  apply BitVec.eq_of_toNat_eq
  rw [packXYN_toNat, fieldX_val, fieldY_val, fieldN_val]
  omega

/-! ### Encoding a decoded word, class by class -/

theorem encodeWord_of_decodeClass8 {w : Word} {i : Instr} (hc : fieldClass w = 8) (h : decodeClass8 w = .ok i) :
    encodeWord i = w := by
  unfold decodeClass8 at h
  split at h
  case h_10 => cases h
  all_goals
    next hn =>
      cases h
      rw [encodeWord, ← hn]
      exact packXYN_fields hc

theorem encodeWord_of_decodeClassE {w : Word} {i : Instr} (hc : fieldClass w = 14) (h : decodeClassE w = .ok i) :
    encodeWord i = w := by
  unfold decodeClassE at h
  repeat' split at h
  pick_goal 3
  · cases h
  all_goals
    next hn =>
      cases h
      rw [encodeWord, ← hn]
      exact packXB_fields hc

theorem encodeWord_of_decodeClassF {w : Word} {i : Instr} (hc : fieldClass w = 15) (h : decodeClassF w = .ok i) :
    encodeWord i = w := by
  unfold decodeClassF at h
  repeat' split at h
  pick_goal 10
  · cases h
  all_goals
    next hn =>
      cases h
      rw [encodeWord, ← hn]
      exact packXB_fields hc

/-- Settles O2: each branch of the decoder names the fields that its class's format packs. -/
theorem encodeOfDecodeIsTheWord : Obligations.EncodeOfDecodeIsTheWord := by
  intro w i h
  unfold decodeWord at h
  split at h
  case h_1 =>
    split at h
    · next hw => cases h; exact hw.symm
    · split at h
      · next hw => cases h; exact hw.symm
      · cases h
  case h_6 hc | h_10 hc =>
    split at h
    · next hn =>
      cases h
      rw [encodeWord, ← hn]
      exact packXYN_fields hc
    · cases h
  case h_9 hc => exact encodeWord_of_decodeClass8 hc h
  case h_15 hc => exact encodeWord_of_decodeClassE hc h
  case h_16 hc => exact encodeWord_of_decodeClassF hc h
  case h_17 => omega
  case h_14 hc =>
    cases h
    exact packXYN_fields hc
  case h_4 hc | h_5 hc | h_7 hc | h_8 hc | h_13 hc =>
    cases h
    exact packXB_fields hc
  case h_2 hc | h_3 hc | h_11 hc | h_12 hc =>
    cases h
    exact packA_fields hc

/-! ### The opcode table's rows (30_encoding.md R77) -/

/-- Two rows that a bit fixed by both masks tells apart share no word. -/
theorem not_matches_of_disjoint {r q : OpcodeRow} {w : Word} (hd : r.disjoint q = true) (hr : r.matches w = true) :
    q.matches w ≠ true := by
  intro hq
  rw [OpcodeRow.matches, beq_iff_eq] at hr hq
  rw [OpcodeRow.disjoint, bne_iff_ne, ← hr, ← hq] at hd
  apply hd
  rw [BitVec.and_assoc, BitVec.and_comm r.mask, ← BitVec.and_assoc]

theorem opcodeRows_disjoint : ∀ r ∈ opcodeRows, ∀ q ∈ opcodeRows, r = q ∨ r.disjoint q = true := by decide

/-- Settles O4: any two different rows of the table are disjoint. -/
theorem noWordBelongsToTwoRows : Obligations.NoWordBelongsToTwoRows := fun _ r q hr hq hrw hqw =>
  (opcodeRows_disjoint r hr q hq).resolve_right fun hd => not_matches_of_disjoint hd hrw hqw

/-! ### Words of each family (30_encoding.md R77) -/

/-- Settles O6: the decoder, run on the eleven words. -/
theorem sampleWordsDecode : Obligations.SampleWordsDecode := by
  unfold Obligations.SampleWordsDecode
  decide

end Sys2Proof
end

/-! PROOFS, the meanings as equations: what `exec` answers, per instruction and, where an instruction has two outcomes,
per outcome; and the frames of the updates they are made of. -/
section
namespace Sys2Proof
open Machine

/-! ### The frames of the other updates -/

theorem Machine.OnlyChanges.setPc {fields : List Field} {s t : State} (h : OnlyChanges fields s t) (hpc : .pc ∈ fields)
    (w : Word) : OnlyChanges fields s (t.setPc w) := by
  intro f hf
  cases f with
  | pc => exact absurd hpc hf
  | _ => exact h _ hf

theorem Machine.OnlyChanges.setRegs {fields : List Field} {s t : State} (h : OnlyChanges fields s t) (hv : .v ∈ fields)
    (r : Vector Byte 16) : OnlyChanges fields s (t.setRegs r) := by
  intro f hf
  cases f with
  | v => exact absurd hv hf
  | _ => exact h _ hf

theorem Machine.OnlyChanges.setStack {fields : List Field} {s t : State} (h : OnlyChanges fields s t)
    (hk : .stack ∈ fields) (k : Vector Word 16) : OnlyChanges fields s (t.setStack k) := by
  intro f hf
  cases f with
  | stack => exact absurd hk hf
  | _ => exact h _ hf

theorem Machine.OnlyChanges.setSp {fields : List Field} {s t : State} (h : OnlyChanges fields s t) (hsp : .sp ∈ fields)
    (n : Fin 17) : OnlyChanges fields s (t.setSp n) := by
  intro f hf
  cases f with
  | sp => exact absurd hsp hf
  | _ => exact h _ hf

theorem Machine.OnlyChanges.setKeys {fields : List Field} {s t : State} (h : OnlyChanges fields s t)
    (hk : .key ∈ fields) (k : Vector Bool 16) : OnlyChanges fields s (t.setKeys k) := by
  intro f hf
  cases f with
  | key => exact absurd hk hf
  | _ => exact h _ hf

theorem Machine.OnlyChanges.setFb {fields : List Field} {s t : State} (h : OnlyChanges fields s t) (hfb : .fb ∈ fields)
    (g : Frame) : OnlyChanges fields s (t.setFb g) := by
  intro f hf
  cases f with
  | fb => exact absurd hfb hf
  | _ => exact h _ hf

theorem Machine.OnlyChanges.storeBytes {fields : List Field} {s t : State} (h : OnlyChanges fields s t)
    (hm : .mem ∈ fields) (a : Nat) (us : List Byte) : OnlyChanges fields s (t.storeBytes a us) := by
  intro f hf
  cases f with
  | mem => exact absurd hm hf
  | _ => exact h _ hf

theorem Machine.OnlyChanges.setDraws {fields : List Field} {s t : State} (h : OnlyChanges fields s t)
    (hd : .draws ∈ fields) (n : Nat) : OnlyChanges fields s (t.setDraws n) := by
  intro f hf
  cases f with
  | draws => exact absurd hd hf
  | _ => exact h _ hf

/-! ### Control flow (41_control_flow.md) -/

theorem exec_jp (nnn : Imm12) (s : State) : exec (.jp nnn) s = .next (s.setPc (addressOf nnn)) := rfl

theorem exec_jpV0 (nnn : Imm12) (s : State) :
    exec (.jpV0 nnn) s = .next (s.setPc (wordOf (s.reg regV0) + addressOf nnn)) := rfl

theorem exec_call_of_lt (nnn : Imm12) {s : State} (h : s.sp.val < 16) :
    exec (.call nnn) s =
      .next (((s.advance.setStack (s.stack.set s.sp.val (s.pc + 2))).setSp ⟨s.sp.val + 1, by omega⟩).setPc
        (addressOf nnn)) := by
  simp [exec, execCall, State.push, h]

theorem exec_call_of_full (nnn : Imm12) {s : State} (h : s.sp.val = 16) :
    exec (.call nnn) s = .next (s.raise .stackOverflow) := by
  simp [exec, execCall, State.push, h]

theorem exec_ret_of_pos {s : State} (h : 0 < s.sp.val) :
    exec .ret s = .next ((s.setSp ⟨s.sp.val - 1, by omega⟩).setPc s.stack[s.sp.val - 1]) := by
  simp [exec, execRet, State.pop, h]

theorem exec_ret_of_empty {s : State} (h : s.sp.val = 0) : exec .ret s = .next (s.raise .stackUnderflow) := by
  simp [exec, execRet, State.pop, h]

/-! ### Registers (42_alu.md) -/

theorem exec_addByte (x : Reg) (nn : Byte) (s : State) :
    exec (.addByte x nn) s = .next (s.advance.setReg x (s.reg x + nn)) := rfl

theorem exec_orReg (x y : Reg) (s : State) :
    exec (.orReg x y) s = .next (s.advance.setReg x (s.reg x ||| s.reg y)) := rfl

theorem exec_andReg (x y : Reg) (s : State) :
    exec (.andReg x y) s = .next (s.advance.setReg x (s.reg x &&& s.reg y)) := rfl

theorem exec_xorReg (x y : Reg) (s : State) :
    exec (.xorReg x y) s = .next (s.advance.setReg x (s.reg x ^^^ s.reg y)) := rfl

theorem exec_subReg (x y : Reg) (s : State) :
    exec (.subReg x y) s = .next (s.advance.setRegFlag x (s.reg x - s.reg y)
      (noBorrow Config.params.borrowCompare (s.reg x) (s.reg y))) := rfl

theorem exec_subnReg (x y : Reg) (s : State) :
    exec (.subnReg x y) s = .next (s.advance.setRegFlag x (s.reg y - s.reg x)
      (noBorrow Config.params.borrowCompare (s.reg y) (s.reg x))) := rfl

theorem exec_shr (x y : Reg) (s : State) :
    exec (.shr x y) s = .next (s.advance.setRegFlag x (s.reg x >>> 1) (bitShiftedRight (s.reg x))) := rfl

theorem exec_shl (x y : Reg) (s : State) :
    exec (.shl x y) s = .next (s.advance.setRegFlag x (s.reg x <<< 1) (bitShiftedLeft (s.reg x))) := rfl

theorem exec_rnd (x : Reg) (nn : Byte) (s : State) :
    exec (.rnd x nn) s =
      .next ((s.advance.setReg x (Config.rand s.draws &&& nn)).setDraws (s.draws + 1)) := rfl

/-! ### Index register and memory (43_index_memory.md), and the sprite's memory (40_display.md R107) -/

theorem exec_addI (x : Reg) (s : State) : exec (.addI x) s = .next (s.advance.setI (s.i + wordOf (s.reg x))) := rfl

theorem exec_ldF_of_le {x : Reg} {s : State} (h : (s.reg x).toNat ≤ 15) :
    exec (.ldF x) s = .next (s.advance.setI (glyphAddress Config.params (s.reg x))) :=
  if_pos h

theorem exec_ldF_of_gt {x : Reg} {s : State} (h : 15 < (s.reg x).toNat) :
    exec (.ldF x) s = .next (s.raise (.fontDigitOutOfRange (s.reg x))) :=
  if_neg (Nat.not_le.2 h)

/-- The four instructions that use memory from I on check their addresses first and alike. -/
theorem exec_of_outOfRange {i : Instr} {s : State} {a : Nat} (h : firstOutOfRange s.i.toNat (bytesUsed i) = some a) :
    exec i s = .next (s.raise (.addressOutOfRange a)) := by
  cases i with
  | drw | ldBcd | storeRegs | loadRegs =>
    rw [bytesUsed] at h
    simp only [exec, execDrw, execLdBcd, execStoreRegs, execLoadRegs, h]
  | _ => simp [bytesUsed, firstOutOfRange] at h

theorem exec_drw_of_inRange {x y : Reg} {n : Fin 16} {s : State} (h : firstOutOfRange s.i.toNat n.val = none) :
    exec (.drw x y n) s =
      let k := drawSprite Config.params.drawEdge (s.reg x) (s.reg y) (Memory.readBytes s.mem s.i.toNat n.val) s.fb
      .next (((s.advance.setFb k.fb).setReg regVF (boolByte k.collision)).setDirty (s.dirty || k.touched)) := by
  simp only [exec, execDrw, h]

theorem exec_ldBcd_of_inRange {x : Reg} {s : State} (h : firstOutOfRange s.i.toNat 3 = none) :
    exec (.ldBcd x) s = .next (s.advance.storeBytes s.i.toNat (bcdDigits (s.reg x))) := by
  simp only [exec, execLdBcd, h]

theorem exec_storeRegs_of_inRange {x : Reg} {s : State} (h : firstOutOfRange s.i.toNat (x.val + 1) = none) :
    exec (.storeRegs x) s = .next (s.advance.storeBytes s.i.toNat (s.regsUpTo x)) := by
  simp only [exec, execStoreRegs, h]

theorem exec_loadRegs_of_inRange {x : Reg} {s : State} (h : firstOutOfRange s.i.toNat (x.val + 1) = none) :
    exec (.loadRegs x) s =
      .next (s.advance.setRegs (writeRegsFrom s.v 0 (Memory.readBytes s.mem s.i.toNat (x.val + 1)))) := by
  simp only [exec, execLoadRegs, h]

/-! ### Keypad (44_keypad.md) -/

theorem exec_skp_of_lt {x : Reg} {s : State} (h : (s.reg x).toNat < 16) :
    exec (.skp x) s = .next (s.advance.skipIf s.key[(s.reg x).toNat]) := by
  simp only [exec, execSkp, State.keyAt, dif_pos h]

theorem exec_sknp_of_lt {x : Reg} {s : State} (h : (s.reg x).toNat < 16) :
    exec (.sknp x) s = .next (s.advance.skipIf (!s.key[(s.reg x).toNat])) := by
  simp only [exec, execSknp, State.keyAt, dif_pos h]

theorem exec_skp_of_gt {x : Reg} {s : State} (h : 15 < (s.reg x).toNat) :
    exec (.skp x) s = .next (s.raise (.keyIndexOutOfRange (s.reg x))) := by
  simp only [exec, execSkp, State.keyAt, dif_neg (show ¬ (s.reg x).toNat < 16 by omega)]

theorem exec_sknp_of_gt {x : Reg} {s : State} (h : 15 < (s.reg x).toNat) :
    exec (.sknp x) s = .next (s.raise (.keyIndexOutOfRange (s.reg x))) := by
  simp only [exec, execSknp, State.keyAt, dif_neg (show ¬ (s.reg x).toNat < 16 by omega)]

/-- The rewind undoes the advance: a waiting Fx0A leaves the state as it is. -/
theorem exec_ldVxK_of_none {x : Reg} {s : State} (h : chooseKey (Config.keySel s.draws) s.pressedKeys = none) :
    exec (.ldVxK x) s = .next s := by
  simp only [exec, execLdVxK, h, State.advance_rewind]

theorem exec_ldVxK_of_some {x : Reg} {s : State} {k : Fin 16}
    (h : chooseKey (Config.keySel s.draws) s.pressedKeys = some k) :
    exec (.ldVxK x) s = .next ((s.advance.setReg x (BitVec.ofNat 8 k.val)).setDraws (s.draws + 1)) := by
  simp only [exec, execLdVxK, h]

/-! ### The step cycle (30_encoding.md R90, R91) -/

theorem step_of_halted {s : State} {c : Condition} (hs : s.status = .halted c) : step s = .next s := by
  simp only [step, hs]

theorem step_of_error {s : State} {c : Condition} (hs : s.Running) (hf : s.fetchInstr = .error c) :
    step s = .next (s.raise c) := by
  rw [State.Running] at hs
  simp only [step, hs, hf]

theorem step_of_ok {s : State} {i : Instr} (hs : s.Running) (hf : s.fetchInstr = .ok i) :
    step s = finishStep (exec i s) := by
  rw [State.Running] at hs
  simp only [step, hs, hf]

end Sys2Proof
end

/-! PROOFS, the whole machine. `Effect` says once what an instruction can do, as a handful of shapes the 34 meanings
share; frames, fatal conditions and invariants are read off the shapes. -/
section
namespace Sys2Proof
open Machine

/-! ### What an instruction can do -/

/-- The fatal conditions an instruction can raise, and when (60_exceptions.md R220 to R222). -/
inductive Machine.Raises : Instr → State → Condition → Prop where
  | stackOverflow {nnn : Imm12} {s : State} : s.sp.val = 16 → Raises (.call nnn) s .stackOverflow
  | stackUnderflow {s : State} : s.sp.val = 0 → Raises .ret s .stackUnderflow
  | addressOutOfRange {i : Instr} {s : State} {a : Nat} :
      firstOutOfRange s.i.toNat (bytesUsed i) = some a → Raises i s (.addressOutOfRange a)
  | keyIndexOutOfRange {i : Instr} {x : Reg} {s : State} :
      i = .skp x ∨ i = .sknp x → 15 < (s.reg x).toNat → Raises i s (.keyIndexOutOfRange (s.reg x))
  | fontDigitOutOfRange {x : Reg} {s : State} :
      15 < (s.reg x).toNat → Raises (.ldF x) s (.fontDigitOutOfRange (s.reg x))

/-- The shapes of the state an instruction answers; a shape's premises name the lists of 10_state.md R22 that admit
it. -/
inductive Machine.Effect (i : Instr) (s : State) : State → Prop where
  | raises {c : Condition} : Raises i s c → Effect i s (s.raise c)
  | waits : Effect i s s
  | jumps {w : Word} : w.toNat ≤ 0x10FE → Effect i s (s.setPc w)
  | skips {c : Bool} : Effect i s (s.advance.skipIf c)
  | calls {nnn : Imm12} (hi : i = .call nnn) (h : s.sp.val < 16) :
      Effect i s (((s.advance.setStack (s.stack.set s.sp.val (s.pc + 2))).setSp ⟨s.sp.val + 1, by omega⟩).setPc
        (addressOf nnn))
  | returns (hi : i = .ret) (h : 0 < s.sp.val) :
      Effect i s ((s.setSp ⟨s.sp.val - 1, by omega⟩).setPc s.stack[s.sp.val - 1])
  | writesReg {x : Reg} {b : Byte} : .v ∈ fieldsWritten i → x ∈ regsWritten i → Effect i s (s.advance.setReg x b)
  | writesRegFlag {x : Reg} {b : Byte} {g : Bool} : .v ∈ fieldsWritten i → x ∈ regsWritten i → regVF ∈ regsWritten i →
      Effect i s (s.advance.setRegFlag x b g)
  | writesRegs {r : Vector Byte 16} : .v ∈ fieldsWritten i → (∀ q : Reg, q ∉ regsWritten i → r[q.val] = s.reg q) →
      Effect i s (s.advance.setRegs r)
  | draws {x : Reg} {b : Byte} : .v ∈ fieldsWritten i → x ∈ regsWritten i → .draws ∈ fieldsWritten i →
      Effect i s ((s.advance.setReg x b).setDraws (s.draws + 1))
  | writesI {w : Word} : .i ∈ fieldsWritten i → Effect i s (s.advance.setI w)
  | writesDelay {b : Byte} : .delay ∈ fieldsWritten i → Effect i s (s.advance.setDelay b)
  | writesSound {b : Byte} : .sound ∈ fieldsWritten i → Effect i s (s.advance.setSound b)
  | stores {us : List Byte} : .mem ∈ fieldsWritten i → s.i.toNat + us.length ≤ memSize →
      Effect i s (s.advance.storeBytes s.i.toNat us)
  | clears (hi : i = .cls) : Effect i s ((s.advance.setFb blankFrame).setDirty true)
  | paints {x y : Reg} {n : Fin 16} {f : Frame} {b : Byte} {d : Bool} (hi : i = .drw x y n) :
      Effect i s (((s.advance.setFb f).setReg regVF b).setDirty d)

theorem add_le_memSize_of_inRange {a n : Nat} (h : firstOutOfRange a (n + 1) = none) : a + (n + 1) ≤ memSize := by
  have := (firstOutOfRange_none a (n + 1)).1 h n (by omega)
  omega

/-- A register that Fx65 does not write keeps its value. -/
theorem loadRegs_keeps {x : Reg} (s : State) (a : Nat) (q : Reg) (hq : q ∉ regsWritten (.loadRegs x)) :
    (writeRegsFrom s.v 0 (Memory.readBytes s.mem a (x.val + 1)))[q.val] = s.reg q := by
  have hx : ¬ q.val < x.val + 1 := fun hlt =>
    hq (List.mem_filter.2 ⟨List.mem_finRange q, decide_eq_true (Fin.le_def.2 (by omega))⟩)
  rw [writeRegsFrom_get _ _ _ _ q.isLt, Memory.readBytes_get]
  simp [hx, State.reg]

/-- Bnnn stays below 0x10FF (41_control_flow.md R133). -/
theorem wordOf_add_addressOf_toNat (b : Byte) (nnn : Imm12) :
    (wordOf b + addressOf nnn).toNat = b.toNat + nnn.toNat := by
  have hb := b.isLt
  have hn := nnn.isLt
  rw [BitVec.toNat_add, wordOf_toNat, addressOf_toNat]
  omega

/-- The four instructions that use memory from I on raise where their check fails, and else do what `h` says. -/
theorem exists_effect_of_check {i : Instr} {s : State}
    (h : firstOutOfRange s.i.toNat (bytesUsed i) = none → ∃ t, exec i s = .next t ∧ Effect i s t) :
    ∃ t, exec i s = .next t ∧ Effect i s t := by
  cases hc : firstOutOfRange s.i.toNat (bytesUsed i) with
  | some a => exact ⟨_, exec_of_outOfRange hc, .raises (.addressOutOfRange hc)⟩
  | none => exact h hc

/-- Every instruction answers a next state, of one of the shapes. -/
theorem exists_effect (i : Instr) (s : State) : ∃ t, exec i s = .next t ∧ Effect i s t := by
  cases i with
  | cls => exact ⟨_, exec_cls s, .clears rfl⟩
  | ret =>
    by_cases h : 0 < s.sp.val
    · exact ⟨_, exec_ret_of_pos h, .returns rfl h⟩
    · have h0 : s.sp.val = 0 := by omega
      exact ⟨_, exec_ret_of_empty h0, .raises (.stackUnderflow h0)⟩
  | call nnn =>
    by_cases h : s.sp.val < 16
    · exact ⟨_, exec_call_of_lt nnn h, .calls rfl h⟩
    · have h16 : s.sp.val = 16 := by omega
      exact ⟨_, exec_call_of_full nnn h16, .raises (.stackOverflow h16)⟩
  | jp nnn =>
    refine ⟨_, exec_jp nnn s, .jumps ?_⟩
    have := nnn.isLt
    rw [addressOf_toNat]
    omega
  | jpV0 nnn =>
    refine ⟨_, exec_jpV0 nnn s, .jumps ?_⟩
    have hn := nnn.isLt
    have hb := (s.reg regV0).isLt
    rw [wordOf_add_addressOf_toNat]
    omega
  | seByte | sneByte | seReg | sneReg => exact ⟨_, rfl, .skips⟩
  | skp x =>
    by_cases h : (s.reg x).toNat < 16
    · exact ⟨_, exec_skp_of_lt h, .skips⟩
    · have hgt : 15 < (s.reg x).toNat := by omega
      exact ⟨_, exec_skp_of_gt hgt, .raises (.keyIndexOutOfRange (.inl rfl) hgt)⟩
  | sknp x =>
    by_cases h : (s.reg x).toNat < 16
    · exact ⟨_, exec_sknp_of_lt h, .skips⟩
    · have hgt : 15 < (s.reg x).toNat := by omega
      exact ⟨_, exec_sknp_of_gt hgt, .raises (.keyIndexOutOfRange (.inr rfl) hgt)⟩
  | ldByte | addByte | ldReg | orReg | andReg | xorReg | ldVxDt =>
    exact ⟨_, rfl, .writesReg (by simp [fieldsWritten]) (by simp [regsWritten])⟩
  | addReg | subReg | subnReg | shr | shl =>
    exact ⟨_, rfl, .writesRegFlag (by simp [fieldsWritten]) (by simp [regsWritten]) (by simp [regsWritten])⟩
  | rnd => exact ⟨_, rfl, .draws (by simp [fieldsWritten]) (by simp [regsWritten]) (by simp [fieldsWritten])⟩
  | ldVxK x =>
    cases h : chooseKey (Config.keySel s.draws) s.pressedKeys with
    | none => exact ⟨_, exec_ldVxK_of_none h, .waits⟩
    | some k =>
      exact ⟨_, exec_ldVxK_of_some h,
        .draws (by simp [fieldsWritten]) (by simp [regsWritten]) (by simp [fieldsWritten])⟩
  | ldI | addI => exact ⟨_, rfl, .writesI (by simp [fieldsWritten])⟩
  | ldF x =>
    by_cases h : (s.reg x).toNat ≤ 15
    · exact ⟨_, exec_ldF_of_le h, .writesI (by simp [fieldsWritten])⟩
    · have hgt : 15 < (s.reg x).toNat := by omega
      exact ⟨_, exec_ldF_of_gt hgt, .raises (.fontDigitOutOfRange hgt)⟩
  | ldDtVx => exact ⟨_, rfl, .writesDelay (by simp [fieldsWritten])⟩
  | ldStVx => exact ⟨_, rfl, .writesSound (by simp [fieldsWritten])⟩
  | drw x y n => exact exists_effect_of_check fun h => ⟨_, exec_drw_of_inRange h, .paints rfl⟩
  | ldBcd x =>
    refine exists_effect_of_check fun h => ⟨_, exec_ldBcd_of_inRange h, .stores (by simp [fieldsWritten]) ?_⟩
    exact add_le_memSize_of_inRange h
  | storeRegs x =>
    refine exists_effect_of_check fun h => ⟨_, exec_storeRegs_of_inRange h, .stores (by simp [fieldsWritten]) ?_⟩
    rw [State.regsUpTo_length]
    exact add_le_memSize_of_inRange h
  | loadRegs x =>
    exact exists_effect_of_check fun h =>
      ⟨_, exec_loadRegs_of_inRange h, .writesRegs (by simp [fieldsWritten]) (loadRegs_keeps s _)⟩

/-- Everything an instruction that answers a next state has done. -/
theorem effect_of_exec {i : Instr} {s t : State} (h : exec i s = .next t) : Effect i s t := by
  obtain ⟨u, hu, he⟩ := exists_effect i s
  rw [hu] at h
  cases h
  exact he

/-- Settles O10: an instruction answers a state of some shape, and a step does so in each of its three cases. -/
theorem everyStepAnswersANextState : Obligations.EveryStepAnswersANextState := by
  have hexec : ∀ (i : Instr) (s : State), ∃ t, exec i s = .next t := fun i s =>
    (exists_effect i s).imp fun _ h => h.1
  refine ⟨hexec, fun s => ?_⟩
  cases hs : s.status with
  | halted c => exact ⟨s, step_of_halted hs⟩
  | running =>
    cases hf : s.fetchInstr with
    | error c => exact ⟨s.raise c, step_of_error hs hf⟩
    | ok i =>
      obtain ⟨u, hu⟩ := hexec i s
      exact ⟨u.endStep, by rw [step_of_ok hs hf, hu, finishStep]⟩

/-! ### Fatal conditions (60_exceptions.md R220 to R222) -/

/-- An instruction raises, or keeps the status. -/
theorem Machine.Effect.raises_or_keeps_status {i : Instr} {s t : State} (h : Effect i s t) :
    (∃ c, Raises i s c ∧ t = s.raise c) ∨ t.status = s.status := by
  cases h with
  | raises hc => exact .inl ⟨_, hc, rfl⟩
  | _ => exact .inr rfl

/-- From a running state, an instruction that leaves a fatal condition has raised it. -/
theorem Machine.Effect.raises_of_halted {i : Instr} {s t : State} {c : Condition} (h : Effect i s t) (hs : s.Running)
    (ht : t.status = .halted c) : Raises i s c ∧ t = s.raise c := by
  rw [State.Running] at hs
  rcases h.raises_or_keeps_status with ⟨d, hd, rfl⟩ | hkeep
  · cases ht
    exact ⟨hd, rfl⟩
  · rw [hkeep, hs] at ht
    cases ht

/-- Settles O11: a step raises where there is no instruction, or where its instruction does; the end of a step that
raised does not tick. -/
theorem raisingStepChangesOnlyTheStatus : Obligations.RaisingStepChangesOnlyTheStatus := by
  intro s t c hs h ht
  obtain ⟨⟨d, hd⟩, _⟩ | ⟨_, d, _, rfl⟩ | ⟨_, i, u, _, hu, rfl⟩ := step_cases h
  · rw [State.Running, hd] at hs
    cases hs
  · cases ht
    rfl
  · rw [State.endStep_status] at ht
    rw [State.endStep_halted ht]
    exact ((effect_of_exec hu).raises_of_halted hs ht).2

/-- Settles O12: the conditions of `Raises`, with the least missing address among those the instruction uses. -/
theorem conditionsAnInstructionCanRaise : Obligations.ConditionsAnInstructionCanRaise := by
  intro i s t c hs h ht
  cases ((effect_of_exec h).raises_of_halted hs ht).1 with
  | stackOverflow hsp => exact .inl ⟨_, rfl, hsp, rfl⟩
  | stackUnderflow hsp => exact .inr (.inl ⟨rfl, hsp, rfl⟩)
  | addressOutOfRange ha =>
    obtain ⟨⟨hsize, hi, hlt⟩, _⟩ := (firstOutOfRange_some ..).1 ha
    exact .inr (.inr (.inl ⟨_, rfl, hsize, hi, hlt⟩))
  | keyIndexOutOfRange hi hx => exact .inr (.inr (.inr (.inl ⟨_, hi, hx, rfl⟩)))
  | fontDigitOutOfRange hx => exact .inr (.inr (.inr (.inr ⟨_, rfl, hx, rfl⟩)))

/-! ### Frames (10_state.md R22, 20_memory.md R50) -/

theorem pc_mem_fieldsWritten (i : Instr) : .pc ∈ fieldsWritten i := by
  cases i <;> simp [fieldsWritten]

theorem raise_onlyChanges {s : State} {c : Condition} (h : (s.raise c).status = s.status) (fields : List Field) :
    OnlyChanges fields s (s.raise c) := by
  have hs : s.raise c = s := by rw [State.raise, show Status.halted c = s.status from h, State.setStatus]
  rw [hs]
  exact .refl fields s

/-- Settles O13: each shape changes the pc and the fields its premises name. -/
theorem instructionsChangeOnlyTheirFields : Obligations.InstructionsChangeOnlyTheirFields := by
  intro i s t h hst
  have hpc := pc_mem_fieldsWritten i
  have hadv : OnlyChanges (fieldsWritten i) s s.advance := .advance s hpc
  cases effect_of_exec h with
  | raises hc => exact raise_onlyChanges hst _
  | waits => exact .refl _ s
  | jumps => exact (OnlyChanges.refl _ s).setPc hpc _
  | skips => exact hadv.setPc hpc _
  | calls hi =>
    subst hi
    exact ((hadv.setStack (by simp [fieldsWritten]) _).setSp (by simp [fieldsWritten]) _).setPc hpc _
  | returns hi =>
    subst hi
    exact ((OnlyChanges.refl _ s).setSp (by simp [fieldsWritten]) _).setPc hpc _
  | writesReg hv => exact hadv.setReg hv _ _
  | writesRegFlag hv => exact (hadv.setReg hv _ _).setReg hv _ _
  | writesRegs hv => exact hadv.setRegs hv _
  | draws hv _ hd => exact (hadv.setReg hv _ _).setDraws hd _
  | writesI hw => exact hadv.setI hw _
  | writesDelay hd => exact hadv.setDelay hd _
  | writesSound hw => exact hadv.setSound hw _
  | stores hm => exact hadv.storeBytes hm _ _
  | clears hi =>
    subst hi
    exact (hadv.setFb (by simp [fieldsWritten]) _).setDirty (by simp [fieldsWritten]) _
  | paints hi =>
    subst hi
    exact ((hadv.setFb (by simp [fieldsWritten]) _).setReg (by simp [fieldsWritten]) _ _).setDirty
      (by simp [fieldsWritten]) _

/-- An instruction changes no register outside its list. -/
theorem exec_regsKeptBut {i : Instr} {s t : State} (h : exec i s = .next t) : RegsKeptBut (regsWritten i) s t := by
  have hadv := RegsKeptBut.advance (regsWritten i) s
  cases effect_of_exec h with
  | writesReg _ hx => exact hadv.setReg hx _
  | writesRegFlag _ hx hf => exact (hadv.setReg hx _).setReg hf _
  | writesRegs _ hr => exact hr
  | draws _ hx => exact hadv.setReg hx _
  | paints hi =>
    subst hi
    exact hadv.setReg (by simp [regsWritten]) _
  | _ => exact fun _ _ => rfl

/-- Every shape but the stores keeps memory, and none writes a key. -/
theorem exec_keeps_key {i : Instr} {s t : State} (h : exec i s = .next t) : t.key = s.key := by
  cases effect_of_exec h <;> rfl

theorem exec_keeps_mem {i : Instr} {s t : State} (h : exec i s = .next t) (hm : .mem ∉ fieldsWritten i) :
    t.mem = s.mem := by
  cases effect_of_exec h with
  | stores hw => exact absurd hw hm
  | _ => rfl

theorem mem_mem_fieldsWritten {i : Instr} (h : .mem ∈ fieldsWritten i) : ∃ x, i = .ldBcd x ∨ i = .storeRegs x := by
  cases i with
  | ldBcd x => exact ⟨x, .inl rfl⟩
  | storeRegs x => exact ⟨x, .inr rfl⟩
  | _ => simp [fieldsWritten] at h

/-- Settles O15: the step's instruction writes no key, and memory only where its list of fields holds memory. -/
theorem onlyTwoInstructionsWriteMemory : Obligations.OnlyTwoInstructionsWriteMemory := by
  intro s t h
  obtain ⟨_, rfl⟩ | ⟨_, c, _, rfl⟩ | ⟨_, i, u, hf, hu, rfl⟩ := step_cases h
  · exact ⟨rfl, fun _ => rfl⟩
  · exact ⟨rfl, fun _ => rfl⟩
  · rw [State.endStep_key, State.endStep_mem]
    refine ⟨exec_keeps_key hu, fun hno => exec_keeps_mem hu fun hw => ?_⟩
    obtain ⟨x, rfl | rfl⟩ := mem_mem_fieldsWritten hw
    · exact (hno x).1 hf
    · exact (hno x).2 hf

/-! ### Invariants (20_memory.md R50, 41_control_flow.md R133) -/

/-- The stores' addresses are checked first, so that no address outside the space is listed. -/
theorem exec_keeps_canonical {i : Instr} {s t : State} (hs : s.Canonical) (h : exec i s = .next t) : t.Canonical := by
  cases effect_of_exec h with
  | stores _ hlen => exact Memory.writeBytes_wf hs hlen
  | _ => exact hs

/-- Settles O58: a step that runs no instruction keeps memory itself, and every instruction keeps its form. -/
theorem stepKeepsMemoryCanonical : Obligations.StepKeepsMemoryCanonical := by
  intro s t hs h
  obtain ⟨_, rfl⟩ | ⟨_, c, _, rfl⟩ | ⟨_, i, u, _, hu, rfl⟩ := step_cases h
  · exact hs
  · exact hs
  · rw [State.Canonical, State.endStep_mem]
    exact exec_keeps_canonical hs hu

theorem Machine.State.Bounded.of_pc {s t : State} (hs : s.Bounded) (hpc : t.pc.toNat ≤ 0x10FE)
    (hst : t.stack = s.stack) : t.Bounded :=
  ⟨hpc, fun k => by simpa only [hst] using hs.2 k⟩

theorem add_two_toNat {w : Word} (h : w.toNat < 0xFFFE) : (w + 2).toNat = w.toNat + 2 := by
  rw [BitVec.toNat_add, show (2 : Word).toNat = 2 from rfl]
  omega

/-- An instruction below 0xFFF advances or skips to 0x1002 at most, jumps to 0x10FE at most, returns to a stack entry,
and pushes 0x1000 at most. -/
theorem exec_keeps_bounded {i : Instr} {s t : State} (hs : s.Bounded) (hpc : s.pc.toNat < 0xFFF)
    (h : exec i s = .next t) : t.Bounded := by
  have hadv : s.advance.pc.toNat = s.pc.toNat + 2 := add_two_toNat (by omega)
  have hadv_le : s.advance.pc.toNat ≤ 0x10FE := by omega
  cases effect_of_exec h with
  | raises | waits => exact hs.of_pc hs.1 rfl
  | jumps hw => exact hs.of_pc hw rfl
  | @skips c =>
    refine hs.of_pc ?_ rfl
    cases c with
    | true =>
      rw [State.skipIf_pc, if_pos rfl, add_two_toNat (by omega)]
      omega
    | false => exact hadv_le
  | @calls nnn _ hsp =>
    refine ⟨?_, fun k => ?_⟩
    · have := nnn.isLt
      rw [State.setPc_pc, addressOf_toNat]
      omega
    · rw [State.setPc_stack, State.setSp_stack, State.setStack_stack, Vector.getElem_set]
      split
      · exact le_of_eq_of_le hadv (by omega)
      · exact hs.2 k
  | returns _ hsp =>
    refine hs.of_pc ?_ rfl
    have := hs.2 ⟨s.sp.val - 1, by omega⟩
    exact this.trans (by decide)
  | _ => exact hs.of_pc hadv_le rfl

/-- Settles O59: an instruction is run only from an address below 0xFFF. -/
theorem stepKeepsThePcBounded : Obligations.StepKeepsThePcBounded := by
  intro s t hs h
  obtain ⟨_, rfl⟩ | ⟨_, c, _, rfl⟩ | ⟨_, i, u, hf, hu, rfl⟩ := step_cases h
  · exact hs
  · exact hs.of_pc hs.1 rfl
  · have hpc : s.pc.toNat < 0xFFF := by
      obtain ⟨_, he⟩ | ⟨hlt, _⟩ := s.fetchInstr_cases
      · rw [he] at hf
        cases hf
      · exact hlt
    have hu' := exec_keeps_bounded hs hpc hu
    exact hu'.of_pc (by rw [State.endStep_pc]; exact hu'.1) (State.endStep_stack u)

end Sys2Proof
end

/-! PROOFS, noninterference. Two runs of one instruction, from states that differ in registers it does not read, in
stale stack entries, in the sound timer and in the dirty flag, differ after it in these parts at most, and there only
where both runs kept what they had. -/
section
namespace Sys2Proof
open Machine

/-! ### Two states and two runs -/

/-- The parts of the state in which the second run may differ. -/
structure Machine.Hidden where
  v : Vector Byte 16
  stack : Vector Word 16
  sound : Byte
  dirty : Bool

/-- The state with these parts in place of its own. -/
def Machine.State.withHidden (s : State) (p : Hidden) : State :=
  (((s.setRegs p.v).setStack p.stack).setSound p.sound).setDirty p.dirty

@[simp] theorem Machine.State.withHidden_keyAt (s : State) (p : Hidden) (b : Byte) :
    (s.withHidden p).keyAt b = s.keyAt b := rfl

@[simp] theorem Machine.State.withHidden_sp (s : State) (p : Hidden) : (s.withHidden p).sp = s.sp := rfl

@[simp] theorem Machine.State.withHidden_stack (s : State) (p : Hidden) : (s.withHidden p).stack = p.stack := rfl

/-- The live entries of the stack are the state's own (10_state.md, Hidden state). -/
def Machine.LiveStack (s : State) (k : Vector Word 16) : Prop :=
  ∀ j : Fin 16, j.val < s.sp.val → k[j.val] = s.stack[j.val]

/-- The first run goes from s to t, the second from s with p to t with q: each part is the same in both, or was kept by
both. -/
structure Machine.Follows (s : State) (p : Hidden) (t : State) (q : Hidden) : Prop where
  reg : ∀ r : Reg, q.v[r.val] = t.reg r ∨ t.reg r = s.reg r ∧ q.v[r.val] = p.v[r.val]
  entry : ∀ j : Fin 16, q.stack[j.val] = t.stack[j.val] ∨
    t.stack[j.val] = s.stack[j.val] ∧ q.stack[j.val] = p.stack[j.val]
  live : LiveStack t q.stack
  sound : q.sound = t.sound ∨ t.sound = s.sound ∧ q.sound = p.sound
  dirty : q.dirty = t.dirty ∨ t.dirty = s.dirty ∧ q.dirty = p.dirty

/-- A part that was the same before the runs is the same after them. -/
theorem eq_of_same_or_kept {α : Type} {a a' b b' : α} (h : b' = b ∨ b = a ∧ b' = a') (hbefore : a' = a) : b' = b := by
  rcases h with heq | ⟨hold, hnew⟩
  · exact heq
  · rw [hnew, hbefore, hold]

namespace Machine.Follows

variable {s t : State} {p q : Hidden}

theorem of_kept (hst : LiveStack s p.stack) (hv : t.v = s.v := by rfl) (hk : t.stack = s.stack := by rfl)
    (hsp : t.sp.val ≤ s.sp.val := by exact Nat.le_refl _) (hs : t.sound = s.sound := by rfl)
    (hd : t.dirty = s.dirty := by rfl) : Follows s p t p where
  reg r := .inr ⟨by rw [State.reg, hv, State.reg], rfl⟩
  entry j := .inr ⟨by rw [hk], rfl⟩
  live j hj := by rw [hst j (by omega), hk]
  sound := .inr ⟨hs, rfl⟩
  dirty := .inr ⟨hd, rfl⟩

theorem setReg (h : Follows s p t q) (x : Reg) (b : Byte) :
    Follows s p (t.setReg x b) { q with v := q.v.set x.val b } where
  reg r := by
    have hr : (q.v.set x.val b)[r.val] = if r = x then b else q.v[r.val] := State.setReg_reg (t.setRegs q.v) x r b
    rw [hr, State.setReg_reg]
    split
    · exact .inl rfl
    · exact h.reg r
  entry := h.entry
  live := h.live
  sound := h.sound
  dirty := h.dirty

theorem loadRegs (h : Follows s p t q) (bs : List Byte) :
    Follows s p (t.setRegs (writeRegsFrom t.v 0 bs)) { q with v := writeRegsFrom q.v 0 bs } where
  reg r := by
    simp only [State.reg, State.setRegs_v, writeRegsFrom_get _ _ _ _ r.isLt, Nat.zero_le, if_true, Nat.sub_zero]
    cases bs[r.val]? with
    | some b => exact .inl rfl
    | none => exact h.reg r
  entry := h.entry
  live := h.live
  sound := h.sound
  dirty := h.dirty

theorem setSound (h : Follows s p t q) (b : Byte) : Follows s p (t.setSound b) { q with sound := b } where
  reg := h.reg
  entry := h.entry
  live := h.live
  sound := .inl rfl
  dirty := h.dirty

theorem setDirty (h : Follows s p t q) (b : Bool) : Follows s p (t.setDirty b) { q with dirty := b } where
  reg := h.reg
  entry := h.entry
  live := h.live
  sound := h.sound
  dirty := .inl rfl

/-- Dirty is set, or kept, in both runs. -/
theorem orDirty (h : Follows s p t q) (b : Bool) :
    Follows s p (t.setDirty (t.dirty || b)) { q with dirty := q.dirty || b } where
  reg := h.reg
  entry := h.entry
  live := h.live
  sound := h.sound
  dirty := by
    cases b with
    | true => simp
    | false => simpa using h.dirty

/-- A push writes the first stale entry and makes it live. -/
theorem push (h : Follows s p t q) (w : Word) (hsp : t.sp.val < 16) :
    Follows s p ((t.setStack (t.stack.set t.sp.val w)).setSp ⟨t.sp.val + 1, by omega⟩)
      { q with stack := q.stack.set t.sp.val w } where
  reg := h.reg
  entry j := by
    simp only [State.setSp_stack, State.setStack_stack, Vector.getElem_set]
    split
    · exact .inl rfl
    · exact h.entry j
  live j hj := by
    simp only [State.setSp_stack, State.setStack_stack, Vector.getElem_set]
    split
    · rfl
    · next hne =>
      have hj' : j.val < t.sp.val + 1 := hj
      exact h.live j (by omega)
  sound := h.sound
  dirty := h.dirty

/-- After the two runs only the four parts differ; a part that was the same before is the same after. -/
theorem onlyChanges {fields : List Field} (h : Follows s p t q) (hv : (∀ r : Reg, p.v[r.val] = s.reg r) ∨ .v ∈ fields)
    (hk : p.stack = s.stack ∨ .stack ∈ fields) (hs : p.sound = s.sound ∨ .sound ∈ fields)
    (hd : p.dirty = s.dirty ∨ .dirty ∈ fields) : OnlyChanges fields t (t.withHidden q) := by
  intro f hf
  cases f with
  | v => exact fun r => eq_of_same_or_kept (h.reg r) (hv.resolve_right hf r)
  | stack =>
    refine Vector.ext fun j hj => eq_of_same_or_kept (h.entry ⟨j, hj⟩) ?_
    rw [hk.resolve_right hf]
  | sound => exact eq_of_same_or_kept h.sound (hs.resolve_right hf)
  | dirty => exact eq_of_same_or_kept h.dirty (hd.resolve_right hf)
  | mem => exact fun _ => rfl
  | _ => rfl

end Machine.Follows

/-! ### One instruction from two states -/

/-- The block Fx55 stores is made of the registers up to x. -/
theorem regsUpTo_congr {s t : State} {x : Reg} (h : ∀ k : Reg, k ≤ x → t.reg k = s.reg k) :
    t.regsUpTo x = s.regsUpTo x := by
  apply List.ext_getElem?
  intro k
  by_cases hk : k < x.val + 1
  · have hle : (⟨k, by omega⟩ : Reg) ≤ x := Fin.le_def.2 (Nat.lt_succ_iff.1 hk)
    have ht := t.regsUpTo_get x ⟨k, by omega⟩ hle
    have hs := s.regsUpTo_get x ⟨k, by omega⟩ hle
    rw [ht, hs, h _ hle]
  · rw [List.getElem?_eq_none (by rw [State.regsUpTo_length]; omega),
      List.getElem?_eq_none (by rw [State.regsUpTo_length]; omega)]

theorem mem_regsRead_storeRegs {x k : Reg} : k ∈ regsRead (.storeRegs x) ↔ k ≤ x := by
  rw [regsRead, List.mem_filter, decide_eq_true_iff, and_iff_right (List.mem_finRange k)]

/-- From s and from s with p, the instruction answers states that follow them. -/
def Machine.RunsAlike (i : Instr) (s : State) (p : Hidden) : Prop :=
  ∃ t q, exec i s = .next t ∧ exec i (s.withHidden p) = .next (t.withHidden q) ∧ Follows s p t q

section
variable {s : State} {p : Hidden}

theorem Machine.RunsAlike.intro {i : Instr} {t : State} {q : Hidden} (h : exec i s = .next t) (hq : Follows s p t q)
    (h' : exec i (s.withHidden p) = .next (t.withHidden q)) : RunsAlike i s p :=
  ⟨t, q, h, h', hq⟩

variable (hst : LiveStack s p.stack)
include hst

/-- The entry a return pops is live. -/
theorem ret_runsAlike : RunsAlike .ret s p := by
  by_cases hsp : 0 < s.sp.val
  · refine .intro (exec_ret_of_pos hsp) (.of_kept hst (hsp := Nat.sub_le ..)) ?_
    have hlive := hst ⟨s.sp.val - 1, by omega⟩ (Nat.sub_lt hsp Nat.one_pos)
    rw [exec_ret_of_pos (s := s.withHidden p) hsp]
    simp only [State.withHidden_stack, State.withHidden_sp, hlive]
    rfl
  · have h0 : s.sp.val = 0 := by omega
    exact .intro (exec_ret_of_empty h0) (.of_kept hst) (exec_ret_of_empty (s := s.withHidden p) h0)

theorem call_runsAlike (nnn : Imm12) : RunsAlike (.call nnn) s p := by
  by_cases hsp : s.sp.val < 16
  · have pushed := (Follows.of_kept (t := s.advance.setPc (addressOf nnn)) hst).push (s.pc + 2) hsp
    exact .intro (exec_call_of_lt nnn hsp) pushed (exec_call_of_lt nnn (s := s.withHidden p) hsp)
  · have h16 : s.sp.val = 16 := by omega
    exact .intro (exec_call_of_full nnn h16) (.of_kept hst) (exec_call_of_full nnn (s := s.withHidden p) h16)

theorem ldVxK_runsAlike (x : Reg) : RunsAlike (.ldVxK x) s p := by
  cases hc : chooseKey (Config.keySel s.draws) s.pressedKeys with
  | none => exact .intro (exec_ldVxK_of_none hc) (.of_kept hst) (exec_ldVxK_of_none (s := s.withHidden p) hc)
  | some k =>
    have drawn : Follows s p (s.advance.setDraws (s.draws + 1)) p := .of_kept hst
    exact .intro (exec_ldVxK_of_some hc) (drawn.setReg x _) (exec_ldVxK_of_some (s := s.withHidden p) hc)

theorem ldF_runsAlike {x : Reg} (hx : (s.withHidden p).reg x = s.reg x) : RunsAlike (.ldF x) s p := by
  by_cases hle : (s.reg x).toNat ≤ 15
  · refine .intro (exec_ldF_of_le hle) (.of_kept hst) ?_
    rw [exec_ldF_of_le (by rwa [hx]), hx]
    rfl
  · have hgt : 15 < (s.reg x).toNat := by omega
    refine .intro (exec_ldF_of_gt hgt) (.of_kept hst) ?_
    rw [exec_ldF_of_gt (by rwa [hx]), hx]
    rfl

/-- Both key skips look at the key Vx names, and keys are not among the parts that differ. -/
theorem keySkips_runAlike {x : Reg} (hx : (s.withHidden p).reg x = s.reg x) :
    RunsAlike (.skp x) s p ∧ RunsAlike (.sknp x) s p := by
  simp only [RunsAlike, exec, execSkp, execSknp, hx, State.withHidden_keyAt]
  cases s.keyAt (s.reg x) with
  | none => exact ⟨⟨_, p, rfl, rfl, .of_kept hst⟩, ⟨_, p, rfl, rfl, .of_kept hst⟩⟩
  | some k => exact ⟨⟨_, p, rfl, rfl, .of_kept hst⟩, ⟨_, p, rfl, rfl, .of_kept hst⟩⟩

/-- A memory instruction checks the same addresses in both runs, and a raise changes the status alone. -/
theorem runsAlike_of_check {i : Instr} (h : firstOutOfRange s.i.toNat (bytesUsed i) = none → RunsAlike i s p) :
    RunsAlike i s p := by
  cases hc : firstOutOfRange s.i.toNat (bytesUsed i) with
  | some a => exact .intro (exec_of_outOfRange hc) (.of_kept hst) (exec_of_outOfRange (s := s.withHidden p) hc)
  | none => exact h hc

/-- An instruction reads the registers of its list and the live stack entries, and neither sound nor dirty. -/
theorem exec_runsAlike {i : Instr} (hv : ∀ r ∈ regsRead i, (s.withHidden p).reg r = s.reg r) : RunsAlike i s p := by
  have adv : Follows s p s.advance p := .of_kept hst
  cases i with
  | ret => exact ret_runsAlike hst
  | call nnn => exact call_runsAlike hst nnn
  | skp x => exact (keySkips_runAlike hst (hv x (by simp [regsRead]))).1
  | sknp x => exact (keySkips_runAlike hst (hv x (by simp [regsRead]))).2
  | ldVxK x => exact ldVxK_runsAlike hst x
  | ldF x => exact ldF_runsAlike hst (hv x (by simp [regsRead]))
  | jp | ldI => exact .intro rfl (.of_kept hst) rfl
  | cls => exact .intro rfl ((Follows.of_kept (t := s.advance.setFb blankFrame) hst).setDirty true) rfl
  | ldByte | ldVxDt => exact .intro rfl (adv.setReg _ _) rfl
  | rnd x nn =>
    have drawn : Follows s p (s.advance.setDraws (s.draws + 1)) p := .of_kept hst
    exact .intro rfl (drawn.setReg x _) rfl
  -- The others read registers of their lists: these are the same in both states.
  | seByte | sneByte | seReg | sneReg | jpV0 | addI | ldDtVx =>
    simp only [regsRead, List.forall_mem_cons] at hv
    refine .intro rfl (.of_kept hst) ?_
    simp only [exec_seByte, exec_sneByte, exec_seReg, exec_sneReg, exec_jpV0, exec_addI, exec_ldDtVx, hv]
    rfl
  | addByte | ldReg | orReg | andReg | xorReg =>
    simp only [regsRead, List.forall_mem_cons] at hv
    refine .intro rfl (adv.setReg _ _) ?_
    simp only [exec_addByte, exec_ldReg, exec_orReg, exec_andReg, exec_xorReg, hv]
    rfl
  | addReg | subReg | subnReg | shr | shl =>
    simp only [regsRead, List.forall_mem_cons] at hv
    refine .intro rfl ((adv.setReg _ _).setReg regVF _) ?_
    simp only [exec_addReg, exec_subReg, exec_subnReg, exec_shr, exec_shl, hv]
    rfl
  | ldStVx x =>
    refine .intro rfl (adv.setSound _) ?_
    rw [exec_ldStVx, hv x (by simp [regsRead])]
    rfl
  | drw x y n =>
    refine runsAlike_of_check hst fun hc => ?_
    have painted := fun f => (Follows.of_kept (t := s.advance.setFb f) hst).setReg regVF
    refine .intro (exec_drw_of_inRange hc) ((painted _ _).orDirty _) ?_
    simp only [regsRead, List.forall_mem_cons] at hv
    rw [exec_drw_of_inRange (s := s.withHidden p) hc, hv.1, hv.2.1]
    rfl
  | ldBcd x =>
    refine runsAlike_of_check hst fun hc => .intro (exec_ldBcd_of_inRange hc) (.of_kept hst) ?_
    rw [exec_ldBcd_of_inRange (s := s.withHidden p) hc, hv x (by simp [regsRead])]
    rfl
  | storeRegs x =>
    refine runsAlike_of_check hst fun hc => .intro (exec_storeRegs_of_inRange hc) (.of_kept hst) ?_
    have hblock : (s.withHidden p).regsUpTo x = s.regsUpTo x :=
      regsUpTo_congr fun k hk => hv k (mem_regsRead_storeRegs.2 hk)
    rw [exec_storeRegs_of_inRange (s := s.withHidden p) hc, hblock]
    rfl
  | loadRegs x =>
    exact runsAlike_of_check hst fun hc =>
      .intro (exec_loadRegs_of_inRange hc) (adv.loadRegs _) (exec_loadRegs_of_inRange (s := s.withHidden p) hc)

end

/-- The second run follows the first, whatever state the first answers. -/
theorem exec_withHidden {i : Instr} {s t : State} {p : Hidden} (hv : ∀ r ∈ regsRead i, (s.withHidden p).reg r = s.reg r)
    (hst : LiveStack s p.stack) (h : exec i s = .next t) :
    ∃ q, exec i (s.withHidden p) = .next (t.withHidden q) ∧ Follows s p t q := by
  obtain ⟨u, q, hu, hq, hfollows⟩ := exec_runsAlike hst hv
  rw [hu] at h
  cases h
  exact ⟨q, hq, hfollows⟩

/-! ### One step from two states -/

/-- The end of a step keeps a difference of two states within the same fields. -/
theorem Machine.OnlyChanges.endStep {fields : List Field} {s t : State} (h : OnlyChanges fields s t)
    (hst : .status ∉ fields) : OnlyChanges fields s.endStep t.endStep := by
  intro f hf
  have hf' := h f hf
  have hstatus : t.status = s.status := h .status hst
  cases f with
  | delay | sound =>
    cases hs : s.status with
    | running =>
      rw [State.endStep_running hs, State.endStep_running (hstatus.trans hs)]
      exact congrArg (policyCountDown _) hf'
    | halted c => rwa [State.endStep_halted hs, State.endStep_halted (hstatus.trans hs)]
  | _ => simpa [Field.Same] using hf'

/-- A step from two states that differ in stale entries, sound and dirty. -/
theorem step_withHidden {s t : State} {p : Hidden} (hv : p.v = s.v) (hst : LiveStack s p.stack) (h : step s = .next t)
    {fields : List Field} (hk : p.stack = s.stack ∨ .stack ∈ fields) (hs : p.sound = s.sound ∨ .sound ∈ fields)
    (hd : p.dirty = s.dirty ∨ .dirty ∈ fields) (hfields : .status ∉ fields) :
    ∃ t', step (s.withHidden p) = .next t' ∧ OnlyChanges fields t t' ∧ LiveStack t t'.stack := by
  have hreg : ∀ r : Reg, p.v[r.val] = s.reg r := fun r => by rw [hv, State.reg]
  have kept : ∀ u : State, Follows s p u p → OnlyChanges fields u (u.withHidden p) := fun _ hu =>
    hu.onlyChanges (.inl hreg) hk hs hd
  obtain ⟨⟨c, hc⟩, rfl⟩ | ⟨hr, c, hf, rfl⟩ | ⟨hr, i, u, hf, hu, rfl⟩ := step_cases h
  · exact ⟨t.withHidden p, step_of_halted (s := t.withHidden p) hc, kept t (.of_kept hst), hst⟩
  · exact ⟨(s.raise c).withHidden p, step_of_error (s := s.withHidden p) hr hf, kept _ (.of_kept hst), hst⟩
  · obtain ⟨q, hq, hfollows⟩ := exec_withHidden (fun r _ => hreg r) hst hu
    refine ⟨(u.withHidden q).endStep, ?_, (hfollows.onlyChanges (.inl hreg) hk hs hd).endStep hfields, fun j hj => ?_⟩
    · rw [step_of_ok (s := s.withHidden p) hr hf, hq, finishStep]
    · rw [State.endStep_sp] at hj
      rw [State.endStep_stack, State.endStep_stack]
      exact hfollows.live j hj

/-- Settles O16: the two runs differ where the two states did, in sound and dirty. -/
theorem soundAndDirtyAreNotRead : Obligations.SoundAndDirtyAreNotRead := by
  intro s t b d h
  obtain ⟨t', ht', hfields, _⟩ := step_withHidden (p := ⟨s.v, s.stack, b, d⟩) (fields := [.sound, .dirty]) rfl
    (fun _ _ => rfl) h (.inl rfl) (.inr (by simp)) (.inr (by simp)) (by simp)
  exact ⟨t', ht', hfields⟩

/-- Settles O17: an entry at or above sp is not live, and the entries live after the step are the same in both runs. -/
theorem staleStackEntriesAreNotRead : Obligations.StaleStackEntriesAreNotRead := by
  intro s t k w hk h
  have hst : LiveStack s (s.stack.set k.val w) := fun j hj => Vector.getElem_set_ne _ _ (by omega)
  exact step_withHidden (p := ⟨s.v, s.stack.set k.val w, s.sound, s.dirty⟩) (fields := [.stack]) rfl hst h
    (.inr (by simp)) (.inl rfl) (.inl rfl) (by simp)

/-- Settles O14: the shapes write only the listed registers; and a register that is not read differs after the two runs
only where both kept it. -/
theorem instructionsReadAndWriteOnlyTheirRegisters : Obligations.InstructionsReadAndWriteOnlyTheirRegisters := by
  intro i s t h
  refine ⟨exec_regsKeptBut h, fun r b hr => ?_⟩
  have hother : ∀ q : Reg, q ≠ r → (s.v.set r.val b)[q.val] = s.reg q := fun q hq => State.setReg_reg_other s b hq
  have hread : ∀ q ∈ regsRead i, (s.v.set r.val b)[q.val] = s.reg q := fun q hq => hother q fun heq => hr (heq ▸ hq)
  obtain ⟨q, hq, hfollows⟩ :=
    exec_withHidden (p := ⟨s.v.set r.val b, s.stack, s.sound, s.dirty⟩) hread (fun _ _ => rfl) h
  exact ⟨t.withHidden q, hq, hfollows.onlyChanges (.inr (by simp)) (.inl rfl) (.inl rfl) (.inl rfl),
    fun x hx => eq_of_same_or_kept (hfollows.reg x) (hother x hx)⟩

end Sys2Proof
end

/-! PROOFS, 70_reset_and_hazards.md and 60_exceptions.md, the host interface: what Reset leaves, what the other
operations keep, and with the steps' invariants those of every state of the block. -/
section
namespace Sys2Proof
open Machine

/-! ### The bytes of reset memory (10_state.md R37) -/

/-- FONT_BASE's bound keeps the font table below the image (92_eei_decisions.md D12). -/
theorem fontBase_add_lt {k : Nat} (hk : k < 80) : Config.params.fontBase.val + k < entryAddress := by
  have := Config.params.fontBase.isLt
  rw [entryAddress]
  omega

theorem initialByte_font {k : Nat} (hk : k < 80) :
    initialByte (Config.params.fontBase.val + k) = Config.params.fontGlyphs[k] := by
  have hlow := fontBase_add_lt hk
  have hin : Config.params.fontBase.val ≤ Config.params.fontBase.val + k ∧
      Config.params.fontBase.val + k < Config.params.fontBase.val + 80 := by omega
  simp only [initialByte, fontByte, if_neg (Nat.not_le.2 hlow), dif_pos hin, Nat.add_sub_cancel_left]

theorem initialByte_zero {a : Nat}
    (h : a < Config.params.fontBase.val ∨ Config.params.fontBase.val + 80 ≤ a) : initialByte a = 0 := by
  have hout : ¬ (Config.params.fontBase.val ≤ a ∧ a < Config.params.fontBase.val + 80) := by omega
  simp only [initialByte, fontByte, dif_neg hout, ite_self]

/-! ### Memories in canonical form (20_memory.md R50) -/

/-- Where a memory in form lists an address, one that reads the same there does not start above it. -/
theorem Machine.Memory.start_le_of_read_eq {low low' b : Nat} {u : Byte} {m m' : Memory}
    (h : Memory.wfFrom low ((b, u) :: m) = true) (h' : Memory.wfFrom low' m' = true)
    (hread : Memory.read ((b, u) :: m) b = Memory.read m' b) : low' ≤ b := by
  by_contra hlt
  obtain ⟨_, _, hne, _⟩ := (Memory.wfFrom_cons ..).1 h
  rw [Memory.read_below h' (by omega), Memory.read, if_pos rfl] at hread
  exact hne hread

theorem Machine.Memory.eq_of_read_eq {low : Nat} {m m' : Memory} (h : Memory.wfFrom low m = true)
    (h' : Memory.wfFrom low m' = true) (hread : ∀ a, a < memSize → Memory.read m a = Memory.read m' a) : m = m' := by
  induction m generalizing low m' with
  | nil =>
    cases m' with
    | nil => rfl
    | cons e' m' =>
      obtain ⟨b', u'⟩ := e'
      obtain ⟨_, hb', _⟩ := (Memory.wfFrom_cons ..).1 h'
      have := Memory.start_le_of_read_eq (low' := b' + 1) h' rfl (hread b' hb').symm
      omega
  | cons e m ih =>
    obtain ⟨b, u⟩ := e
    obtain ⟨_, hb, hu, hm⟩ := (Memory.wfFrom_cons ..).1 h
    cases m' with
    | nil =>
      have := Memory.start_le_of_read_eq (low' := b + 1) h rfl (hread b hb)
      omega
    | cons e' m' =>
      obtain ⟨b', u'⟩ := e'
      obtain ⟨_, hb', hu', hm'⟩ := (Memory.wfFrom_cons ..).1 h'
      have hle : b' ≤ b :=
        Memory.start_le_of_read_eq h ((Memory.wfFrom_cons ..).2 ⟨Nat.le_refl b', hb', hu', hm'⟩) (hread b hb)
      have hge : b ≤ b' :=
        Memory.start_le_of_read_eq h' ((Memory.wfFrom_cons ..).2 ⟨Nat.le_refl b, hb, hu, hm⟩) (hread b' hb').symm
      obtain rfl : b = b' := by omega
      obtain rfl : u = u' := by simpa [Memory.read] using hread b hb
      have htail : m = m' := by
        refine ih hm hm' fun a ha => ?_
        by_cases hab : a = b
        · rw [Memory.read_below hm (by omega), Memory.read_below hm' (by omega)]
        · simpa [Memory.read, hab] using hread a ha
      rw [htail]

/-- Settles O56: the first listed address is the first that does not read as its reset contents. -/
theorem equalMemoriesAreEqualData : Obligations.EqualMemoriesAreEqualData := fun _ _ h h' hread =>
  Memory.eq_of_read_eq h h' hread

/-! ### Reset (70_reset_and_hazards.md R260, R261) -/

theorem entryAddress_add_le {image : List Byte} (h : image.length ≤ maxImage) :
    entryAddress + image.length ≤ memSize := by
  rw [maxImage] at h
  rw [entryAddress, memSize]
  omega

theorem loadImage_readByte {image : List Byte} (draws : Nat) (h : image.length ≤ maxImage) (a : Nat) :
    (loadImage draws image).readByte a =
      if ha : entryAddress ≤ a ∧ a < entryAddress + image.length then image[a - entryAddress]'(by omega)
      else initialByte a :=
  Memory.read_writeBytes Memory.wf_nil (entryAddress_add_le h) a

theorem resetWith_some {image : List Byte} (draws : Nat) (h : image.length ≤ maxImage) :
    resetWith draws (some image) = .next (loadImage draws image) :=
  if_pos h

/-- Everything a reset that answers a state can have done. -/
theorem resetWith_cases {draws : Nat} {o : Option (List Byte)} {s : State} (h : resetWith draws o = .next s) :
    ∃ image, image.length ≤ maxImage ∧
      (s = loadImage draws image ∨ s = (loadImage draws image).raise .loadFailure) := by
  cases o with
  | none =>
    cases h
    exact ⟨[], Nat.zero_le _, .inr rfl⟩
  | some image =>
    by_cases hlen : image.length ≤ maxImage
    · rw [resetWith_some draws hlen] at h
      cases h
      exact ⟨image, hlen, .inl rfl⟩
    · simp [resetWith, hlen] at h

/-- Settles O51: the fields by computation, and a byte by the image's bounds, the font's bounds, or neither. -/
theorem resetLeavesTheSpecsState : Obligations.ResetLeavesTheSpecsState := by
  intro draws image hlen
  have hbytes := loadImage_readByte draws hlen
  refine ⟨_, resetWith_some draws hlen, fun r => ?regs, rfl, rfl, fun k => ?stack, rfl, rfl, rfl, fun k => ?keys,
    blankFrame_get, rfl, rfl, fun k hk => ?image, fun k hk => ?font, fun a hout hfont => ?rest⟩
  case regs => exact Vector.getElem_replicate r.isLt
  case stack => exact Vector.getElem_replicate k.isLt
  case keys => exact Vector.getElem_replicate k.isLt
  case image =>
    rw [hbytes, dif_pos (by rw [entryAddress]; omega)]
    simp only [entryAddress, Nat.add_sub_cancel_left]
  case font =>
    have hlow := fontBase_add_lt hk
    rw [hbytes, dif_neg (by omega), initialByte_font hk]
  case rest =>
    rw [hbytes, dif_neg (by rw [entryAddress]; omega), initialByte_zero hfont]

/-- Settles O52: both answers are the definition's, the image's length being compared with 3584. -/
theorem resetUnreadableOrTooLong : Obligations.ResetUnreadableOrTooLong :=
  ⟨fun draws => ⟨loadImage draws [], resetWith_some draws (Nat.zero_le _), rfl⟩,
    fun _ _ hlen => if_neg (Nat.not_le.2 hlen)⟩

/-! ### The other operations (60_exceptions.md R245 to R248) -/

theorem setKey_run_of_lt {s : State} {k : Nat} {b : Bool} (h : k < 16) :
    Operation.run (.setKey k b) s = .next (s.setKeys (s.key.set k b)) :=
  dif_pos h

/-- Settles O53: a key in the array is set, and another index is refused. -/
theorem setKeySetsOneKey : Obligations.SetKeySetsOneKey := by
  intro s k b
  refine ⟨fun hk => ⟨_, setKey_run_of_lt hk, fun j => ?key, (OnlyChanges.refl _ s).setKeys (by simp) _⟩,
    fun hk => dif_neg (Nat.not_lt.2 hk)⟩
  case key => simp only [State.setKeys_key, Vector.getElem_set, eq_comm]

/-- Everything an operation that answers a state can have done: only Reset and a step touch more than the timers, the
keys and the dirty flag. -/
theorem operation_cases {o : Operation} {s t : State} (h : o.run s = .next t) :
    (∃ image, o = .reset image ∧ resetWith s.draws image = .next t) ∨ (o = .step ∧ step s = .next t) ∨
    (t.status = s.status ∧ t.mem = s.mem ∧ t.pc = s.pc ∧ t.stack = s.stack) := by
  cases o with
  | reset image => exact .inl ⟨image, rfl, h⟩
  | step => exact .inr (.inl ⟨rfl, h⟩)
  | setKey k b =>
    by_cases hk : k < 16
    · rw [setKey_run_of_lt hk] at h
      cases h
      exact .inr (.inr ⟨rfl, rfl, rfl, rfl⟩)
    · rw [Operation.run, State.setKey, dif_neg hk] at h
      cases h
  | tickTimers | queryFramebuffer | clearDirty | queryStatus =>
    cases h
    exact .inr (.inr ⟨rfl, rfl, rfl, rfl⟩)

/-- Settles O55: a step of a halted state answers the state, and the other operations keep the status. -/
theorem onlyResetLeavesAHaltedState : Obligations.OnlyResetLeavesAHaltedState := by
  intro s t c o hs hno h
  obtain ⟨image, rfl, _⟩ | ⟨_, hstep⟩ | ⟨hstatus, _⟩ := operation_cases h
  · exact absurd rfl (hno image)
  · rw [step_of_halted hs] at hstep
    cases hstep
    exact hs
  · rw [hstatus, hs]

/-! ### The invariants of every state of the block (41_control_flow.md R133) -/

/-- Settles O57: reset memory lists nothing, pc is 0x200 and every entry is 0. -/
theorem resetMeetsTheInvariants : Obligations.ResetMeetsTheInvariants := by
  refine ⟨Memory.wf_nil, ?pc, fun k => ?stack⟩
  case pc => decide
  case stack =>
    rw [State.reset, Vector.getElem_replicate]
    decide

theorem loadImage_canonical {image : List Byte} (draws : Nat) (h : image.length ≤ maxImage) :
    (loadImage draws image).Canonical :=
  Memory.writeBytes_wf Memory.wf_nil (entryAddress_add_le h)

theorem loadImage_bounded (draws : Nat) (image : List Byte) : (loadImage draws image).Bounded :=
  resetMeetsTheInvariants.2.of_pc resetMeetsTheInvariants.2.1 rfl

theorem reachable_canonical_bounded {s : State} (h : Reachable s) : s.Canonical ∧ s.Bounded := by
  have resetMeets : ∀ {draws image} {t : State}, resetWith draws image = .next t → t.Canonical ∧ t.Bounded := by
    intro draws image t ht
    obtain ⟨bytes, hlen, rfl | rfl⟩ := resetWith_cases ht
    · exact ⟨loadImage_canonical draws hlen, loadImage_bounded draws bytes⟩
    · exact ⟨loadImage_canonical draws hlen, loadImage_bounded draws bytes⟩
  induction h with
  | reset hreset => exact resetMeets hreset
  | op o _ hrun ih =>
    obtain ⟨hcanonical, hbounded⟩ := ih
    obtain ⟨image, _, hreset⟩ | ⟨_, hstep⟩ | ⟨_, hmem, hpc, hstack⟩ := operation_cases hrun
    · exact resetMeets hreset
    · exact ⟨stepKeepsMemoryCanonical _ _ hcanonical hstep, stepKeepsThePcBounded _ _ hbounded hstep⟩
    · refine ⟨?_, hbounded.of_pc (by rw [hpc]; exact hbounded.1) hstack⟩
      rw [State.Canonical, hmem]
      exact hcanonical

/-- Settles O60: the bound on pc leaves room for an advance and a skip. -/
theorem reachableStatesMeetTheInvariants : Obligations.ReachableStatesMeetTheInvariants := by
  intro s h
  obtain ⟨hcanonical, hbounded⟩ := reachable_canonical_bounded h
  have hpc := hbounded.1
  exact ⟨hcanonical, hbounded, by omega⟩

end Sys2Proof
end

/-! PROOFS, 41_control_flow.md and 44_keypad.md: jumps, the call and the return, the key skips and the wait for a key,
each read off its equation. -/
section
namespace Sys2Proof
open Machine

/-! ### Jumps (41_control_flow.md R125, R131) -/

theorem decodeWord_class1 {w : Word} (h : fieldClass w = 0x1) : decodeWord w = .ok (.jp (fieldNnn w)) := by
  simp [decodeWord, h]

theorem exists_next_of_exec_setPc {i : Instr} {s : State} {w : Word} (h : exec i s = .next (s.setPc w)) :
    ∃ t, exec i s = .next t ∧ t.pc = w ∧ OnlyChanges [.pc] s t :=
  ⟨_, h, State.setPc_pc .., (OnlyChanges.refl _ s).setPc (by simp) w⟩

/-- Settles O21: the decoder's class 1, and a write to pc of the immediate, which the extension to 16 bits keeps. -/
theorem jpSetsThePc : Obligations.JpSetsThePc := by
  refine ⟨fun _ => decodeWord_class1, fun nnn s => ?_⟩
  obtain ⟨t, ht, hpc, hfields⟩ := exists_next_of_exec_setPc (exec_jp nnn s)
  exact ⟨t, ht, by rw [hpc, addressOf_toNat], hfields⟩

/-- Settles O27: the sum of a byte and a 12-bit immediate does not pass 16 bits. -/
theorem jpV0AddsV0 : Obligations.JpV0AddsV0 := by
  intro nnn s
  obtain ⟨t, ht, hpc, hfields⟩ := exists_next_of_exec_setPc (exec_jpV0 nnn s)
  exact ⟨t, ht, by rw [hpc, wordOf_add_addressOf_toNat], hfields⟩

/-! ### Call and return (41_control_flow.md R121 to R124) -/

/-- Settles O23: with room, a push of the next address and a jump; with a full stack, a raise. -/
theorem callPushesAndJumps : Obligations.CallPushesAndJumps := by
  refine fun nnn s => ⟨fun hsp => ⟨_, exec_call_of_lt nnn hsp, addressOf_toNat nnn, rfl, fun k => ?entry, ?fields⟩,
    fun hsp => exec_call_of_full nnn hsp⟩
  case entry =>
    simp only [State.setPc_stack, State.setSp_stack, State.setStack_stack, Vector.getElem_set, eq_comm]
  case fields =>
    exact (((OnlyChanges.advance s (by simp)).setStack (by simp) _).setSp (by simp) _).setPc (by simp) _

/-- Settles O24: with an entry, a pop into pc; with an empty stack, a raise. -/
theorem retPopsThePc : Obligations.RetPopsThePc := fun s =>
  ⟨fun hsp => ⟨_, exec_ret_of_pos hsp, rfl, rfl, ((OnlyChanges.refl _ s).setSp (by simp) _).setPc (by simp) _⟩,
    fun hsp => exec_ret_of_empty hsp⟩

/-- Settles O25: the call left the next address in the entry the return pops. -/
theorem returnGoesBackToTheCall : Obligations.ReturnGoesBackToTheCall := by
  intro nnn s t u hsp ht hstack husp
  obtain ⟨t', ht', _, htsp, hentry, _⟩ := (callPushesAndJumps nnn s).1 hsp
  obtain rfl : t' = t := by
    rw [ht'] at ht
    cases ht
    rfl
  have husp' : u.sp.val = s.sp.val + 1 := by rw [husp, htsp]
  obtain ⟨r, hr, hrsp, hrpc, _⟩ := (retPopsThePc u).1 (by omega)
  refine ⟨r, hr, ?pc, Fin.ext (by omega)⟩
  case pc =>
    have htop := hentry ⟨s.sp.val, hsp⟩
    rw [if_pos rfl] at htop
    simp only [hrpc, hstack, husp', Nat.add_sub_cancel, htop]

/-! ### Key skips (44_keypad.md R200 to R202) -/

/-- Settles O45: with a key named, a skip on its level, or on its opposite; with none, a raise. -/
theorem keySkips : Obligations.KeySkips := by
  refine fun x s => ⟨fun h => ⟨exists_next_of_exec_skipIf (exec_skp_of_lt h), ?sknp⟩,
    fun h => ⟨exec_skp_of_gt h, exec_sknp_of_gt h⟩⟩
  case sknp =>
    simpa only [Bool.not_eq_true', ← Bool.not_eq_true, ite_not] using exists_next_of_exec_skipIf (exec_sknp_of_lt h)

/-! ### The wait for a key (44_keypad.md R204, R205) -/

theorem decodeWord_ldVxK {w : Word} (hc : fieldClass w = 0xF) (hn : fieldNn w = 0x0A) :
    decodeWord w = .ok (.ldVxK (fieldX w)) := by
  rw [decodeWord_classF hc]
  simp [decodeClassF, hn]

theorem pressedKeys_eq_nil_iff (s : State) : s.pressedKeys = [] ↔ ∀ k : Fin 16, s.key[k.val] = false := by
  simp only [List.eq_nil_iff_forall_not_mem, State.mem_pressedKeys, Bool.not_eq_true]

/-- With no key pressed none is chosen, and the wait leaves the state. -/
theorem exec_ldVxK_of_released {s : State} (x : Reg) (h : ∀ k : Fin 16, s.key[k.val] = false) :
    exec (.ldVxK x) s = .next s :=
  exec_ldVxK_of_none ((chooseKey_none ..).2 ((pressedKeys_eq_nil_iff s).2 h))

/-- Settles O46: a key is chosen exactly when one is pressed, and it is one of those pressed. -/
theorem keyWaitCompletesOnAKey : Obligations.KeyWaitCompletesOnAKey := by
  refine ⟨fun _ => decodeWord_ldVxK, fun x s => ⟨exec_ldVxK_of_released x, fun ⟨j, hj⟩ => ?completes⟩⟩
  cases hc : chooseKey (Config.keySel s.draws) s.pressedKeys with
  | none =>
    have hreleased := (pressedKeys_eq_nil_iff s).1 ((chooseKey_none ..).1 hc) j
    rw [hj] at hreleased
    cases hreleased
  | some k =>
    refine ⟨_, exec_ldVxK_of_some hc, ⟨k, (s.mem_pressedKeys k).1 (chooseKey_mem hc), ?key⟩, rfl, ?regs, ?fields⟩
    case key =>
      have := k.isLt
      rw [State.setDraws_reg, State.setReg_reg_same, BitVec.toNat_ofNat]
      omega
    case regs => exact (RegsKeptBut.advance _ s).setReg (by simp) _
    case fields => exact ((OnlyChanges.advance s (by simp)).setReg (by simp) x _).setDraws (by simp) _

end Sys2Proof
end

/-! PROOFS, 42_alu.md: the ALU's other instructions, each a write of Vx, or of Vx and VF, after the pc's advance. -/
section
namespace Sys2Proof
open Machine

/-! ### 7xnn and the logic instructions (42_alu.md R153, R155 to R157) -/

/-- Settles O29: a write of the wrapped sum to Vx. -/
theorem addByteWrapsWithoutFlag : Obligations.AddByteWrapsWithoutFlag := by
  intro x nn s
  obtain ⟨t, ht, hx, hrest⟩ := exists_next_of_exec_setReg (exec_addByte x nn s)
  exact ⟨t, ht, by rw [hx, BitVec.toNat_add], hrest⟩

/-- Settles O31: a write to Vx of the bitwise operation. -/
theorem logicOperationsBitByBit : Obligations.LogicOperationsBitByBit := by
  refine fun x y s => ⟨?or, ?and, ?xor⟩
  case or =>
    obtain ⟨t, ht, hx, hrest⟩ := exists_next_of_exec_setReg (exec_orReg x y s)
    exact ⟨t, ht, fun k => by rw [hx, BitVec.getLsbD_or], hrest⟩
  case and =>
    obtain ⟨t, ht, hx, hrest⟩ := exists_next_of_exec_setReg (exec_andReg x y s)
    exact ⟨t, ht, fun k => by rw [hx, BitVec.getLsbD_and], hrest⟩
  case xor =>
    obtain ⟨t, ht, hx, hrest⟩ := exists_next_of_exec_setReg (exec_xorReg x y s)
    exact ⟨t, ht, fun k => by rw [hx, BitVec.getLsbD_xor], hrest⟩

/-! ### Subtractions and shifts (42_alu.md R159 to R164) -/

theorem sub_toNat (a b : Byte) : (a - b).toNat = (a.toNat + 256 - b.toNat) % 256 := by
  have := b.isLt
  rw [BitVec.toNat_sub]
  omega

theorem boolByte_noBorrow (cmp : BorrowCompare) (a b : Byte) :
    boolByte (noBorrow cmp a b) = match cmp with
      | .ge => if b.toNat ≤ a.toNat then 1 else 0
      | .gt => if b.toNat < a.toNat then 1 else 0 := by
  cases cmp <;> simp only [boolByte, noBorrow_iff]

/-- Settles O33: a write of the wrapped difference to Vx and after it of the no-borrow flag to VF. -/
theorem subtractionsBorrow : Obligations.SubtractionsBorrow := by
  refine fun x y s => ⟨?sub, ?subn⟩
  case sub =>
    obtain ⟨t, ht, hx, hvf, hrest⟩ := exists_next_of_exec_setRegFlag (exec_subReg x y s)
    exact ⟨t, ht, fun hne => by rw [hx hne, sub_toNat], hvf.trans (boolByte_noBorrow ..), hrest⟩
  case subn =>
    obtain ⟨t, ht, hx, hvf, hrest⟩ := exists_next_of_exec_setRegFlag (exec_subnReg x y s)
    exact ⟨t, ht, fun hne => by rw [hx hne, sub_toNat], hvf.trans (boolByte_noBorrow ..), hrest⟩

theorem shiftRight_one_toNat (a : Byte) : (a >>> 1).toNat = a.toNat / 2 := by
  rw [BitVec.toNat_ushiftRight, Nat.shiftRight_eq_div_pow, Nat.pow_one]

theorem shiftLeft_one_toNat (a : Byte) : (a <<< 1).toNat = a.toNat * 2 % 256 := by
  rw [BitVec.toNat_shiftLeft, Nat.shiftLeft_eq, Nat.pow_one]

/-- Settles O34: the equations do not mention y, so that the state found for one y is the state for all. -/
theorem shiftsByOneBit : Obligations.ShiftsByOneBit := by
  refine fun x s => ⟨?right, ?left⟩
  case right =>
    obtain ⟨t, ht, hx, hvf, hrest⟩ := exists_next_of_exec_setRegFlag (exec_shr x x s)
    exact ⟨t, fun _ => ht, fun hne => by rw [hx hne, shiftRight_one_toNat],
      by rw [hvf, boolByte_bitShiftedRight], hrest⟩
  case left =>
    obtain ⟨t, ht, hx, hvf, hrest⟩ := exists_next_of_exec_setRegFlag (exec_shl x x s)
    exact ⟨t, fun _ => ht, fun hne => by rw [hx hne, shiftLeft_one_toNat],
      by rw [hvf, boolByte_bitShiftedLeft], hrest⟩

/-! ### The random byte (42_alu.md R165) -/

/-- Settles O35: a write of the masked draw to Vx and an advance of the draw counter. -/
theorem rndMasksAFreshDraw : Obligations.RndMasksAFreshDraw := by
  refine fun x nn s => ⟨_, exec_rnd x nn s, fun k => ?bits, rfl, rfl, ?regs, ?fields⟩
  case bits => rw [State.setDraws_reg, State.setReg_reg_same, BitVec.getLsbD_and]
  case regs => exact (RegsKeptBut.advance _ s).setReg (by simp) _
  case fields => exact ((OnlyChanges.advance s (by simp)).setReg (by simp) x _).setDraws (by simp) _

end Sys2Proof
end

/-! PROOFS, 43_index_memory.md and 20_memory.md: the index register, the font, the two stores, the load, and what a
fetch sees after a store. -/
section
namespace Sys2Proof
open Machine

/-! ### The index register (43_index_memory.md R183, R184) -/

/-- Settles O37: a write to I of the sum, which wraps at 16 bits. -/
theorem addIWrapsWithoutFlag : Obligations.AddIWrapsWithoutFlag := by
  intro x s
  obtain ⟨t, ht, hi, hrest⟩ := exists_next_of_exec_setI (exec_addI x s)
  exact ⟨t, ht, by rw [hi, BitVec.toNat_add, wordOf_toNat], hrest⟩

/-- Settles O38: a digit's glyph has an address below 0x200, which a word holds; another value raises. -/
theorem ldFPointsAtTheGlyph : Obligations.LdFPointsAtTheGlyph := by
  refine fun x s => ⟨fun hle => ?glyph, fun hgt => exec_ldF_of_gt hgt⟩
  case glyph =>
    obtain ⟨t, ht, hi, hrest⟩ := exists_next_of_exec_setI (exec_ldF_of_le hle)
    exact ⟨t, ht, by rw [hi, glyphAddress_toNat _ _ hle], hrest⟩

/-- Settles O44: an address of the font table lists nothing in reset memory, and reads as the table's byte. -/
theorem glyphsLieWhereFx29Points : Obligations.GlyphsLieWhereFx29Points := by
  intro x s k hd hk hmem
  refine ⟨_, exec_ldF_of_le hd, ?_⟩
  have hread : ∀ a, s.readByte a = initialByte a := fun a => by rw [State.readByte, hmem]; rfl
  rw [State.setI_readByte, State.advance_readByte, hread, State.setI_i, glyphAddress_toNat _ _ hd, Nat.add_assoc]
  exact initialByte_font (by omega)

/-! ### The check of the addresses (43_index_memory.md R180) -/

theorem inRange_of_last {a n : Nat} (h : a + n < 4096) : firstOutOfRange a (n + 1) = none :=
  (firstOutOfRange_none a (n + 1)).2 fun k hk => by rw [memSize]; omega

/-- Settles O42: the check names the least address of the block that does not exist. -/
theorem memoryInstructionsTrapPastTheEnd : Obligations.MemoryInstructionsTrapPastTheEnd :=
  fun _ _ _ hsize hi hlt hleast => exec_of_outOfRange ((firstOutOfRange_some ..).2 ⟨⟨hsize, hi, hlt⟩, hleast⟩)

/-! ### The stores Fx33 and Fx55 (43_index_memory.md R185, R186) -/

/-- Bytes stored from I on inside the address space are read back, and every other byte is as before. -/
theorem exists_next_of_exec_storeBytes {i : Instr} {s : State} {us : List Byte}
    (h : exec i s = .next (s.advance.storeBytes s.i.toNat us)) (hs : s.Canonical)
    (hlen : s.i.toNat + us.length ≤ memSize) :
    ∃ t, exec i s = .next t ∧ (∀ k u, us[k]? = some u → t.readByte (s.i.toNat + k) = u) ∧
      BytesKeptBut s.i.toNat us.length s t ∧ t.pc = s.pc + 2 ∧ OnlyChanges [.mem, .pc] s t := by
  refine ⟨_, h, fun k u hu => ?stored, fun b hb => ?kept, rfl, ?fields⟩
  case stored =>
    obtain ⟨hk, rfl⟩ := List.getElem?_eq_some_iff.1 hu
    have hin : s.i.toNat ≤ s.i.toNat + k ∧ s.i.toNat + k < s.i.toNat + us.length := by omega
    have hread := Memory.read_writeBytes hs hlen (s.i.toNat + k)
    simp only [dif_pos hin, Nat.add_sub_cancel_left] at hread
    exact hread
  case kept => exact Memory.read_writeBytes_other s.mem us hb
  case fields => exact (OnlyChanges.advance s (by simp)).storeBytes (by simp) _ _

/-- Settles O39: the three digits are stored, and each fits a byte. -/
theorem ldBcdStoresTheDigits : Obligations.LdBcdStoresTheDigits := by
  intro x s hs hlast
  have hin : firstOutOfRange s.i.toNat 3 = none := inRange_of_last hlast
  obtain ⟨t, ht, hread, hrest⟩ :=
    exists_next_of_exec_storeBytes (exec_ldBcd_of_inRange hin) hs (add_le_memSize_of_inRange hin)
  have hv := (s.reg x).isLt
  refine ⟨t, ht, ?hundreds, ?tens, ?units, hrest⟩
  case hundreds =>
    rw [← Nat.add_zero s.i.toNat, hread 0 _ rfl, BitVec.toNat_ofNat]
    omega
  case tens =>
    rw [hread 1 _ rfl, BitVec.toNat_ofNat]
    omega
  case units =>
    rw [hread 2 _ rfl, BitVec.toNat_ofNat]
    omega

/-- Settles O40: the block stored is V0 to Vx. -/
theorem storeRegsStoresV0ToVx : Obligations.StoreRegsStoresV0ToVx := by
  intro x s hs hlast
  have hin := inRange_of_last hlast
  have hlen : s.i.toNat + (s.regsUpTo x).length ≤ memSize := by
    rw [State.regsUpTo_length]
    exact add_le_memSize_of_inRange hin
  obtain ⟨t, ht, hread, hrest⟩ := exists_next_of_exec_storeBytes (exec_storeRegs_of_inRange hin) hs hlen
  rw [State.regsUpTo_length] at hrest
  exact ⟨t, ht, fun k hk => hread k.val _ (s.regsUpTo_get x k hk), hrest⟩

/-- Settles O43: the two bytes stored at I are the word's, the high byte first. -/
theorem storeIsSeenByTheNextFetch : Obligations.StoreIsSeenByTheNextFetch := by
  intro x s t u hs hx hlast ht hmem hpc
  obtain ⟨t', ht', hread, _⟩ := storeRegsStoresV0ToVx x s hs hlast
  obtain rfl : t' = t := by
    rw [ht'] at ht
    cases ht
    rfl
  have hhigh : u.readByte s.i.toNat = s.reg 0 := by
    rw [State.readByte, hmem]
    exact hread 0 (Fin.zero_le x)
  have hlow : u.readByte (s.i.toNat + 1) = s.reg 1 := by
    rw [State.readByte, hmem]
    exact hread 1 (Fin.le_def.2 hx)
  refine ⟨wordOfBytes (s.reg 0) (s.reg 1), ?fetch, wordOfBytes_toNat ..⟩
  case fetch => rw [State.fetchWord, hpc, if_pos (by omega), hhigh, hlow]

/-! ### The load Fx65 (43_index_memory.md R187) -/

/-- Settles O41: register k takes byte k of the block where there is one. -/
theorem loadRegsLoadsV0ToVx : Obligations.LoadRegsLoadsV0ToVx := by
  intro x s hlast
  refine ⟨_, exec_loadRegs_of_inRange (inRange_of_last hlast), fun k => ?loaded, rfl, ?fields⟩
  case loaded =>
    rw [State.reg, State.setRegs_v, writeRegsFrom_get _ _ _ _ k.isLt, if_pos (Nat.zero_le _), Nat.sub_zero,
      Memory.readBytes_get]
    by_cases hk : k ≤ x
    · rw [if_pos hk, if_pos (Nat.lt_succ_iff.2 (Fin.le_def.1 hk))]
      rfl
    · rw [if_neg hk, if_neg (fun hlt => hk (Fin.le_def.2 (Nat.lt_succ_iff.1 hlt)))]
      rfl
  case fields => exact (OnlyChanges.advance s (by simp)).setRegs (by simp) _

end Sys2Proof
end

/-! PROOFS, 40_display.md, Dxyn: the model's draw touches the pixels the spec names; drawn again from the same
coordinates and bytes it touches the same ones. -/
section
namespace Sys2Proof
open Machine

/-! ### One draw (40_display.md R101 to R107) -/

/-- A sprite has at most 15 rows. -/
theorem spriteRows_length_le (m : Memory) (a : Nat) (n : Fin 16) : (Memory.readBytes m a n.val).length ≤ 32 := by
  have := n.isLt
  rw [Memory.readBytes_length]
  omega

/-- Settles O19: the draw's pixels, collision and touch are those of the pixels the sprite's set bits fall on. -/
theorem drwDrawsTheSprite : Obligations.DrwDrawsTheSprite := by
  intro x y n s hin
  have hrows := spriteRows_length_le s.mem s.i.toNat n
  have hcollision := drawSprite_collision Config.params.drawEdge (s.reg x) (s.reg y) _ s.fb hrows
  have htouched := drawSprite_touched Config.params.drawEdge (s.reg x) (s.reg y)
    (Memory.readBytes s.mem s.i.toNat n.val) s.fb
  simp only [← drawTouches_iff] at hcollision htouched
  refine ⟨_, exec_drw_of_inRange ((firstOutOfRange_none ..).2 hin), fun px py => ?pixels, fun hset => ?collides,
    fun hset => ?clean, ?dirty, rfl, ?regs, ?fields⟩
  case pixels =>
    rw [drawTouches_iff]
    exact drawSprite_get _ _ _ _ s.fb hrows px py
  case collides => rw [State.setDirty_reg, State.setReg_reg_same, hcollision.2 hset, boolByte_true]
  case clean =>
    rw [State.setDirty_reg, State.setReg_reg_same, Bool.eq_false_iff.2 (mt hcollision.1 hset), boolByte_false]
  case dirty => rw [State.setDirty_dirty, Bool.or_eq_true, htouched]
  case regs => exact (RegsKeptBut.advance _ s).setReg (by simp) _
  case fields =>
    exact (((OnlyChanges.advance s (by simp)).setFb (by simp) _).setReg (by simp) _ _).setDirty (by simp) _

/-! ### The same draw again (40_display.md R108) -/

theorem drawTouches_congr {s t : State} {x y : Reg} {n : Fin 16} (hi : t.i = s.i) (hx : t.reg x = s.reg x)
    (hy : t.reg y = s.reg y) (hm : ∀ a, t.readByte a = s.readByte a) (px : Fin 64) (py : Fin 32) :
    DrawTouches t x y n px py ↔ DrawTouches s x y n px py := by
  simp only [DrawTouches, hi, hx, hy, hm]

/-- Settles O20: the second draw has the first one's coordinates and bytes, so that it inverts the same pixels back. -/
theorem drawingTwiceRestoresTheScreen : Obligations.DrawingTwiceRestoresTheScreen := by
  intro x y n s hx hy hin
  obtain ⟨t, ht, hpix, _, _, _, _, hregs, hfields⟩ := drwDrawsTheSprite x y n s hin
  have hi : t.i = s.i := hfields .i (by simp)
  obtain ⟨u, hu, hpix', hcollides, hclean, _⟩ := drwDrawsTheSprite x y n t (by rwa [hi])
  have same := drawTouches_congr (n := n) hi (hregs x (by simpa using hx)) (hregs y (by simpa using hy))
    (hfields .mem (by simp))
  simp only [same] at hpix' hcollides hclean
  have hset : (∃ px py, DrawTouches s x y n px py ∧ t.fb.get px py = true) ↔
      ∃ px py, DrawTouches s x y n px py ∧ s.fb.get px py = false :=
    exists_congr fun px => exists_congr fun py => and_congr_right fun htouch => by simp [(hpix px py).1 htouch]
  rw [hset] at hcollides hclean
  refine ⟨t, u, ht, hu, Frame.ext_get fun px py => ?restored, hcollides, hclean⟩
  case restored =>
    by_cases htouch : DrawTouches s x y n px py
    · rw [(hpix' px py).1 htouch, (hpix px py).1 htouch, Bool.not_not]
    · rw [(hpix' px py).2 htouch, (hpix px py).2 htouch]

end Sys2Proof
end

/-! PROOFS, 30_encoding.md R90, the step cycle: a step is the fetch of the word at pc, its instruction and the policy's
tick; and the runs that stay where they are. -/
section
namespace Sys2Proof
open Machine

/-! ### The fetch (30_encoding.md R72, 20_memory.md R52) -/

theorem fetchWord_eq {s : State} {w : Word} (hpc : s.pc.toNat + 1 ≤ 0xFFF)
    (hw : w.toNat = (s.readByte s.pc.toNat).toNat * 256 + (s.readByte (s.pc.toNat + 1)).toNat) :
    s.fetchWord = some w := by
  rw [State.fetchWord, if_pos hpc, Option.some_inj]
  apply BitVec.eq_of_toNat_eq
  rw [wordOfBytes_toNat, hw]

theorem fetchInstr_of_ok {s : State} {w : Word} {i : Instr} (hw : s.fetchWord = some w) (hd : decodeWord w = .ok i) :
    s.fetchInstr = .ok i := by
  simp only [State.fetchInstr, hw, hd]

theorem fetchInstr_of_illegal {s : State} {w : Word} (hw : s.fetchWord = some w) (hl : legalWord w = false) :
    s.fetchInstr = .error (.unrecognizedInstruction w) := by
  simp only [State.fetchInstr, hw, (recognisedWordsAreTheTables w).2 hl]

theorem fetchInstr_of_beyond {s : State} (hpc : 0xFFF ≤ s.pc.toNat) :
    s.fetchInstr = .error (.fetchOutOfRange s.pc) := by
  have hnone : s.fetchWord = none := if_neg (by omega)
  simp only [State.fetchInstr, hnone]

/-- Settles O7: the fetched word is the one the two bytes form, and the end of the step is by the status `exec` left. -/
theorem stepRunsTheDecodedInstruction : Obligations.StepRunsTheDecodedInstruction := by
  intro s w i hs hpc hw hd
  have hstep := step_of_ok hs (fetchInstr_of_ok (fetchWord_eq hpc hw) hd)
  refine ⟨hstep, fun u hu => ⟨fun hrun => ?completed, fun c hc => ?raised⟩⟩
  case completed => rw [hstep, hu, finishStep, State.endStep_running hrun]
  case raised => rw [hstep, hu, finishStep, State.endStep_halted hc]

/-- Settles O8: the fetch gives the condition, and the step raises it. -/
theorem stepWithoutInstructionHalts : Obligations.StepWithoutInstructionHalts := by
  refine fun s hs => ⟨fun hpc => step_of_error hs (fetchInstr_of_beyond hpc), fun w hpc hw hl => ?illegal⟩
  case illegal => exact step_of_error hs (fetchInstr_of_illegal (fetchWord_eq (by omega) hw) hl)

/-! ### Runs (30_encoding.md R91) -/

theorem core_run_succ {s t : State} (h : step s = .next t) (k : Nat) :
    Host.Core.run Sys2Proof.core (k + 1) s = Host.Core.run Sys2Proof.core k t := by
  have hstep : Sys2Proof.core.step s = .next t := h
  simp only [Host.Core.run, hstep]

/-- Settles O9: each of the steps answers the halted state itself. -/
theorem haltedRunStaysAsItIs : Obligations.HaltedRunStaysAsItIs := by
  intro s c k hs
  induction k with
  | zero => rfl
  | succ k ih => rw [core_run_succ (step_of_halted hs), ih]

/-- The state with other timers: what a run that stays where it is goes through. -/
def Machine.State.withTimers (s : State) (delay sound : Byte) : State := (s.setDelay delay).setSound sound

theorem withTimers_onlyChanges (s : State) (delay sound : Byte) :
    OnlyChanges [.delay, .sound] s (s.withTimers delay sound) :=
  ((OnlyChanges.refl _ s).setDelay (by simp) delay).setSound (by simp) sound

/-- Where the instruction at pc leaves the state as it is, whatever the timers, a run changes only the timers. -/
theorem run_withTimers {s : State} {i : Instr} (hs : s.Running) (hf : s.fetchInstr = .ok i)
    (hfixed : ∀ delay sound, exec i (s.withTimers delay sound) = .next (s.withTimers delay sound)) (k : Nat)
    (delay sound : Byte) :
    ∃ delay' sound', Host.Core.run Sys2Proof.core k (s.withTimers delay sound) =
      .next (s.withTimers delay' sound') := by
  induction k generalizing delay sound with
  | zero => exact ⟨delay, sound, rfl⟩
  | succ k ih =>
    have hstep := step_eq_policyTick (s := s.withTimers delay sound) hs hf (hfixed delay sound) hs
    rw [core_run_succ hstep]
    exact ih (policyCountDown _ delay) (policyCountDown _ sound)

theorem exists_run_of_fixed {s : State} {i : Instr} (hs : s.Running) (hf : s.fetchInstr = .ok i)
    (hfixed : ∀ delay sound, exec i (s.withTimers delay sound) = .next (s.withTimers delay sound)) (k : Nat) :
    ∃ t, Host.Core.run Sys2Proof.core k s = .next t ∧ OnlyChanges [.delay, .sound] s t := by
  obtain ⟨delay, sound, hrun⟩ := run_withTimers hs hf hfixed k s.delay s.sound
  exact ⟨_, hrun, withTimers_onlyChanges s delay sound⟩

/-- Settles O22: a jump to pc leaves the state as it is. -/
theorem selfJumpRunsForEver : Obligations.SelfJumpRunsForEver := by
  intro s nnn k hs hf hpc
  refine exists_run_of_fixed hs hf (fun delay sound => ?_) k
  have hself : addressOf nnn = s.pc := BitVec.eq_of_toNat_eq (by rw [addressOf_toNat, hpc])
  rw [exec_jp, hself]
  rfl

/-- Settles O47: with no key pressed Fx0A leaves the state as it is. -/
theorem keyWaitBlocksWithoutAKey : Obligations.KeyWaitBlocksWithoutAKey := fun _ x k hs hf hreleased =>
  exists_run_of_fixed hs hf (fun _ _ => exec_ldVxK_of_released x hreleased) k

/-! ### The tick by policy (60_exceptions.md R241, R242) -/

theorem policyTick_timers (p : TimerPolicy) (s : State) :
    ((s.policyTick p).delay, (s.policyTick p).sound) = match p with
      | .perStep => (s.tick.delay, s.tick.sound)
      | .externalTick => (s.delay, s.sound) := by
  cases p with
  | perStep => simp only [State.policyTick_delay, State.policyTick_sound, policyCountDown_perStep, State.tick_delay,
      State.tick_sound]
  | externalTick => simp only [State.policyTick_delay, State.policyTick_sound, policyCountDown_externalTick]

/-- Settles O50: the instruction keeps the timers, so that the tick is of the timers before the step. -/
theorem policyDecidesTheTick : Obligations.PolicyDecidesTheTick := by
  refine ⟨fun s t i hs hf hi h ht => ?_, fun s => rfl⟩
  rw [step_of_ok hs hf] at h
  obtain ⟨u, hu, rfl⟩ := finishStep_next h
  obtain ⟨hdelay, hsound⟩ := exec_keeps_timers hu (fun x => (hi x).1) (fun x => (hi x).2)
  rw [State.Running, State.endStep_status] at ht
  rw [State.endStep_running ht]
  have htick := policyTick_timers Config.params.timerPolicy u
  rw [State.tick_delay, State.tick_sound, hdelay, hsound] at htick
  exact htick

end Sys2Proof
end
